-- ==== Sys2Proof/Word.lean ====
section
/-! DEFINITION. The widths of the machine: longword, word, byte (R7, R14 of 00_scope.md) and the number of a
general register (R21, R103). -/

namespace Sys2Proof

/-- A longword, 32 bits: the width of every register and of every address (R5, R20). -/
abbrev Word := BitVec 32

/-- A word in the manual's sense, 16 bits: a memory datum or an instruction code (R14, R100). -/
abbrev Half := BitVec 16

/-- A byte, 8 bits (R14). -/
abbrev Byte := BitVec 8

/-- The number of a general register, R0 to R15 (R21, R103). -/
abbrev Reg := Fin 16

end Sys2Proof
end

