-- ==== Sys2Proof/Syntax.lean ====
section
/-! DEFINITION. The instruction set: one constructor per row of spec/opcode_table.json (142). A constructor's operands stand
in the order of the assembler text (R112). A register operand is its number; an immediate `imm` and a displacement
`d` are the instruction code's field itself, not yet extended or scaled (R104, R105). -/

namespace Sys2Proof

/-- The 142 instructions (R115), each with the rule that gives its meaning. -/
inductive Instr where
  -- Data transfer (40_data_transfer.md)
  /-- `MOV #imm,Rn`, R130. -/
  | movImm (imm : BitVec 8) (n : Reg)
  /-- `MOV.W @(disp,PC),Rn`, R131. -/
  | movWPc (d : BitVec 8) (n : Reg)
  /-- `MOV.L @(disp,PC),Rn`, R132. -/
  | movLPc (d : BitVec 8) (n : Reg)
  /-- `MOV Rm,Rn`, R133. -/
  | mov (m : Reg) (n : Reg)
  /-- `MOV.B Rm,@Rn`, R134. -/
  | movBStore (m : Reg) (n : Reg)
  /-- `MOV.W Rm,@Rn`, R135. -/
  | movWStore (m : Reg) (n : Reg)
  /-- `MOV.L Rm,@Rn`, R136. -/
  | movLStore (m : Reg) (n : Reg)
  /-- `MOV.B @Rm,Rn`, R137. -/
  | movBLoad (m : Reg) (n : Reg)
  /-- `MOV.W @Rm,Rn`, R138. -/
  | movWLoad (m : Reg) (n : Reg)
  /-- `MOV.L @Rm,Rn`, R139. -/
  | movLLoad (m : Reg) (n : Reg)
  /-- `MOV.B Rm,@-Rn`, R140. -/
  | movBStoreDec (m : Reg) (n : Reg)
  /-- `MOV.W Rm,@-Rn`, R141. -/
  | movWStoreDec (m : Reg) (n : Reg)
  /-- `MOV.L Rm,@-Rn`, R142. -/
  | movLStoreDec (m : Reg) (n : Reg)
  /-- `MOV.B @Rm+,Rn`, R143. -/
  | movBLoadInc (m : Reg) (n : Reg)
  /-- `MOV.W @Rm+,Rn`, R144. -/
  | movWLoadInc (m : Reg) (n : Reg)
  /-- `MOV.L @Rm+,Rn`, R145. -/
  | movLLoadInc (m : Reg) (n : Reg)
  /-- `MOV.B R0,@(disp,Rn)`, R146. -/
  | movBStoreDisp (d : BitVec 4) (n : Reg)
  /-- `MOV.W R0,@(disp,Rn)`, R147. -/
  | movWStoreDisp (d : BitVec 4) (n : Reg)
  /-- `MOV.L Rm,@(disp,Rn)`, R148. -/
  | movLStoreDisp (m : Reg) (d : BitVec 4) (n : Reg)
  /-- `MOV.B @(disp,Rm),R0`, R149. -/
  | movBLoadDisp (d : BitVec 4) (m : Reg)
  /-- `MOV.W @(disp,Rm),R0`, R150. -/
  | movWLoadDisp (d : BitVec 4) (m : Reg)
  /-- `MOV.L @(disp,Rm),Rn`, R151. -/
  | movLLoadDisp (d : BitVec 4) (m : Reg) (n : Reg)
  /-- `MOV.B Rm,@(R0,Rn)`, R152. -/
  | movBStoreIdx (m : Reg) (n : Reg)
  /-- `MOV.W Rm,@(R0,Rn)`, R153. -/
  | movWStoreIdx (m : Reg) (n : Reg)
  /-- `MOV.L Rm,@(R0,Rn)`, R154. -/
  | movLStoreIdx (m : Reg) (n : Reg)
  /-- `MOV.B @(R0,Rm),Rn`, R155. -/
  | movBLoadIdx (m : Reg) (n : Reg)
  /-- `MOV.W @(R0,Rm),Rn`, R156. -/
  | movWLoadIdx (m : Reg) (n : Reg)
  /-- `MOV.L @(R0,Rm),Rn`, R157. -/
  | movLLoadIdx (m : Reg) (n : Reg)
  /-- `MOV.B R0,@(disp,GBR)`, R158. -/
  | movBStoreGbr (d : BitVec 8)
  /-- `MOV.W R0,@(disp,GBR)`, R159. -/
  | movWStoreGbr (d : BitVec 8)
  /-- `MOV.L R0,@(disp,GBR)`, R160. -/
  | movLStoreGbr (d : BitVec 8)
  /-- `MOV.B @(disp,GBR),R0`, R161. -/
  | movBLoadGbr (d : BitVec 8)
  /-- `MOV.W @(disp,GBR),R0`, R162. -/
  | movWLoadGbr (d : BitVec 8)
  /-- `MOV.L @(disp,GBR),R0`, R163. -/
  | movLLoadGbr (d : BitVec 8)
  /-- `MOVA @(disp,PC),R0`, R164. -/
  | mova (d : BitVec 8)
  /-- `MOVT Rn`, R165. -/
  | movt (n : Reg)
  /-- `SWAP.B Rm,Rn`, R166. -/
  | swapB (m : Reg) (n : Reg)
  /-- `SWAP.W Rm,Rn`, R167. -/
  | swapW (m : Reg) (n : Reg)
  /-- `XTRCT Rm,Rn`, R168. -/
  | xtrct (m : Reg) (n : Reg)
  -- Arithmetic (41_arithmetic.md)
  /-- `ADD Rm,Rn`, R170. -/
  | addR (m : Reg) (n : Reg)
  /-- `ADD #imm,Rn`, R171. -/
  | addImm (imm : BitVec 8) (n : Reg)
  /-- `ADDC Rm,Rn`, R172. -/
  | addc (m : Reg) (n : Reg)
  /-- `ADDV Rm,Rn`, R173. -/
  | addv (m : Reg) (n : Reg)
  /-- `CMP/EQ #imm,R0`, R174. -/
  | cmpEqImm (imm : BitVec 8)
  /-- `CMP/EQ Rm,Rn`, R175. -/
  | cmpEq (m : Reg) (n : Reg)
  /-- `CMP/HS Rm,Rn`, R176. -/
  | cmpHs (m : Reg) (n : Reg)
  /-- `CMP/GE Rm,Rn`, R177. -/
  | cmpGe (m : Reg) (n : Reg)
  /-- `CMP/HI Rm,Rn`, R178. -/
  | cmpHi (m : Reg) (n : Reg)
  /-- `CMP/GT Rm,Rn`, R179. -/
  | cmpGt (m : Reg) (n : Reg)
  /-- `CMP/PZ Rn`, R180. -/
  | cmpPz (n : Reg)
  /-- `CMP/PL Rn`, R181. -/
  | cmpPl (n : Reg)
  /-- `CMP/STR Rm,Rn`, R182. -/
  | cmpStr (m : Reg) (n : Reg)
  /-- `DIV1 Rm,Rn`, R183. -/
  | div1 (m : Reg) (n : Reg)
  /-- `DIV0S Rm,Rn`, R184. -/
  | div0s (m : Reg) (n : Reg)
  /-- `DIV0U`, R185. -/
  | div0u
  /-- `DMULS.L Rm,Rn`, R186. -/
  | dmulsL (m : Reg) (n : Reg)
  /-- `DMULU.L Rm,Rn`, R187. -/
  | dmuluL (m : Reg) (n : Reg)
  /-- `DT Rn`, R188. -/
  | dt (n : Reg)
  /-- `EXTS.B Rm,Rn`, R189. -/
  | extsB (m : Reg) (n : Reg)
  /-- `EXTS.W Rm,Rn`, R190. -/
  | extsW (m : Reg) (n : Reg)
  /-- `EXTU.B Rm,Rn`, R191. -/
  | extuB (m : Reg) (n : Reg)
  /-- `EXTU.W Rm,Rn`, R192. -/
  | extuW (m : Reg) (n : Reg)
  /-- `MAC.L @Rm+,@Rn+`, R193. -/
  | macL (m : Reg) (n : Reg)
  /-- `MAC.W @Rm+,@Rn+`, R194. -/
  | macW (m : Reg) (n : Reg)
  /-- `MUL.L Rm,Rn`, R195. -/
  | mulL (m : Reg) (n : Reg)
  /-- `MULS.W Rm,Rn`, R196. -/
  | mulsW (m : Reg) (n : Reg)
  /-- `MULU.W Rm,Rn`, R197. -/
  | muluW (m : Reg) (n : Reg)
  /-- `NEG Rm,Rn`, R198. -/
  | neg (m : Reg) (n : Reg)
  /-- `NEGC Rm,Rn`, R199. -/
  | negc (m : Reg) (n : Reg)
  /-- `SUB Rm,Rn`, R200. -/
  | subR (m : Reg) (n : Reg)
  /-- `SUBC Rm,Rn`, R201. -/
  | subc (m : Reg) (n : Reg)
  /-- `SUBV Rm,Rn`, R202. -/
  | subv (m : Reg) (n : Reg)
  -- Logic (42_logic.md)
  /-- `AND Rm,Rn`, R210. -/
  | andR (m : Reg) (n : Reg)
  /-- `AND #imm,R0`, R211. -/
  | andImm (imm : BitVec 8)
  /-- `AND.B #imm,@(R0,GBR)`, R212. -/
  | andB (imm : BitVec 8)
  /-- `NOT Rm,Rn`, R213. -/
  | notR (m : Reg) (n : Reg)
  /-- `OR Rm,Rn`, R214. -/
  | orR (m : Reg) (n : Reg)
  /-- `OR #imm,R0`, R215. -/
  | orImm (imm : BitVec 8)
  /-- `OR.B #imm,@(R0,GBR)`, R216. -/
  | orB (imm : BitVec 8)
  /-- `TAS.B @Rn`, R217. -/
  | tasB (n : Reg)
  /-- `TST Rm,Rn`, R218. -/
  | tstR (m : Reg) (n : Reg)
  /-- `TST #imm,R0`, R219. -/
  | tstImm (imm : BitVec 8)
  /-- `TST.B #imm,@(R0,GBR)`, R220. -/
  | tstB (imm : BitVec 8)
  /-- `XOR Rm,Rn`, R221. -/
  | xorR (m : Reg) (n : Reg)
  /-- `XOR #imm,R0`, R222. -/
  | xorImm (imm : BitVec 8)
  /-- `XOR.B #imm,@(R0,GBR)`, R223. -/
  | xorB (imm : BitVec 8)
  -- Shift (43_shift.md)
  /-- `ROTL Rn`, R230. -/
  | rotl (n : Reg)
  /-- `ROTR Rn`, R231. -/
  | rotr (n : Reg)
  /-- `ROTCL Rn`, R232. -/
  | rotcl (n : Reg)
  /-- `ROTCR Rn`, R233. -/
  | rotcr (n : Reg)
  /-- `SHAL Rn`, R234. -/
  | shal (n : Reg)
  /-- `SHAR Rn`, R235. -/
  | shar (n : Reg)
  /-- `SHLL Rn`, R236. -/
  | shll (n : Reg)
  /-- `SHLR Rn`, R237. -/
  | shlr (n : Reg)
  /-- `SHLL2 Rn`, R238. -/
  | shll2 (n : Reg)
  /-- `SHLR2 Rn`, R239. -/
  | shlr2 (n : Reg)
  /-- `SHLL8 Rn`, R240. -/
  | shll8 (n : Reg)
  /-- `SHLR8 Rn`, R241. -/
  | shlr8 (n : Reg)
  /-- `SHLL16 Rn`, R242. -/
  | shll16 (n : Reg)
  /-- `SHLR16 Rn`, R243. -/
  | shlr16 (n : Reg)
  -- Branch (44_branch.md)
  /-- `BF label`, R260. -/
  | bf (d : BitVec 8)
  /-- `BF/S label`, R261. -/
  | bfS (d : BitVec 8)
  /-- `BT label`, R262. -/
  | bt (d : BitVec 8)
  /-- `BT/S label`, R263. -/
  | btS (d : BitVec 8)
  /-- `BRA label`, R264. -/
  | bra (d : BitVec 12)
  /-- `BRAF Rm`, R265. -/
  | braf (m : Reg)
  /-- `BSR label`, R266. -/
  | bsr (d : BitVec 12)
  /-- `BSRF Rm`, R267. -/
  | bsrf (m : Reg)
  /-- `JMP @Rm`, R268. -/
  | jmp (m : Reg)
  /-- `JSR @Rm`, R269. -/
  | jsr (m : Reg)
  /-- `RTS`, R270. -/
  | rts
  -- System control (45_system_control.md)
  /-- `CLRT`, R280. -/
  | clrt
  /-- `CLRMAC`, R281. -/
  | clrmac
  /-- `LDC Rm,SR`, R282. -/
  | ldcSr (m : Reg)
  /-- `LDC Rm,GBR`, R283. -/
  | ldcGbr (m : Reg)
  /-- `LDC Rm,VBR`, R284. -/
  | ldcVbr (m : Reg)
  /-- `LDC.L @Rm+,SR`, R285. -/
  | ldcLSr (m : Reg)
  /-- `LDC.L @Rm+,GBR`, R286. -/
  | ldcLGbr (m : Reg)
  /-- `LDC.L @Rm+,VBR`, R287. -/
  | ldcLVbr (m : Reg)
  /-- `LDS Rm,MACH`, R288. -/
  | ldsMach (m : Reg)
  /-- `LDS Rm,MACL`, R289. -/
  | ldsMacl (m : Reg)
  /-- `LDS Rm,PR`, R290. -/
  | ldsPr (m : Reg)
  /-- `LDS.L @Rm+,MACH`, R291. -/
  | ldsLMach (m : Reg)
  /-- `LDS.L @Rm+,MACL`, R292. -/
  | ldsLMacl (m : Reg)
  /-- `LDS.L @Rm+,PR`, R293. -/
  | ldsLPr (m : Reg)
  /-- `NOP`, R294. -/
  | nop
  /-- `RTE`, R295. -/
  | rte
  /-- `SETT`, R296. -/
  | sett
  /-- `SLEEP`, R297. -/
  | sleep
  /-- `STC SR,Rn`, R298. -/
  | stcSr (n : Reg)
  /-- `STC GBR,Rn`, R299. -/
  | stcGbr (n : Reg)
  /-- `STC VBR,Rn`, R300. -/
  | stcVbr (n : Reg)
  /-- `STC.L SR,@-Rn`, R301. -/
  | stcLSr (n : Reg)
  /-- `STC.L GBR,@-Rn`, R302. -/
  | stcLGbr (n : Reg)
  /-- `STC.L VBR,@-Rn`, R303. -/
  | stcLVbr (n : Reg)
  /-- `STS MACH,Rn`, R304. -/
  | stsMach (n : Reg)
  /-- `STS MACL,Rn`, R305. -/
  | stsMacl (n : Reg)
  /-- `STS PR,Rn`, R306. -/
  | stsPr (n : Reg)
  /-- `STS.L MACH,@-Rn`, R307. -/
  | stsLMach (n : Reg)
  /-- `STS.L MACL,@-Rn`, R308. -/
  | stsLMacl (n : Reg)
  /-- `STS.L PR,@-Rn`, R309. -/
  | stsLPr (n : Reg)
  /-- `TRAPA #imm`, R310. -/
  | trapa (imm : BitVec 8)
deriving DecidableEq, Repr

end Sys2Proof
end

