-- ==== Sys2Proof/WellFormed.lean ====
section
/-! DEFINITION. Which instructions are well-formed where. The types of Syntax.lean already bound every operand (a
register number below 16, fields of their width), so an ill-formed operand cannot be written. What can be ill-formed is a
placement: an instruction in a delay slot that the spec does not allow there (R253, R254, R381). -/

namespace Sys2Proof

/-- The list of R253: the instructions that rewrite PC and may not stand in a delay slot. -/
def Instr.isBranchClass : Instr → Bool
  | .bf _ | .bfS _ | .bt _ | .btS _ | .bra _ | .braf _ | .bsr _ | .bsrf _ | .jmp _ | .jsr _ | .rts | .rte |
    .trapa _ => true
  | .movImm _ _ | .movWPc _ _ | .movLPc _ _ | .mov _ _ | .movBStore _ _ | .movWStore _ _ | .movLStore _ _ |
    .movBLoad _ _ | .movWLoad _ _ | .movLLoad _ _ | .movBStoreDec _ _ | .movWStoreDec _ _ | .movLStoreDec _ _
    | .movBLoadInc _ _ | .movWLoadInc _ _ | .movLLoadInc _ _ | .movBStoreDisp _ _ | .movWStoreDisp _ _ |
    .movLStoreDisp _ _ _ | .movBLoadDisp _ _ | .movWLoadDisp _ _ | .movLLoadDisp _ _ _ | .movBStoreIdx _ _ |
    .movWStoreIdx _ _ | .movLStoreIdx _ _ | .movBLoadIdx _ _ | .movWLoadIdx _ _ | .movLLoadIdx _ _ |
    .movBStoreGbr _ | .movWStoreGbr _ | .movLStoreGbr _ | .movBLoadGbr _ | .movWLoadGbr _ | .movLLoadGbr _ |
    .mova _ | .movt _ | .swapB _ _ | .swapW _ _ | .xtrct _ _ | .addR _ _ | .addImm _ _ | .addc _ _ | .addv _ _
    | .cmpEqImm _ | .cmpEq _ _ | .cmpHs _ _ | .cmpGe _ _ | .cmpHi _ _ | .cmpGt _ _ | .cmpPz _ | .cmpPl _ |
    .cmpStr _ _ | .div1 _ _ | .div0s _ _ | .div0u | .dmulsL _ _ | .dmuluL _ _ | .dt _ | .extsB _ _ | .extsW _
    _ | .extuB _ _ | .extuW _ _ | .macL _ _ | .macW _ _ | .mulL _ _ | .mulsW _ _ | .muluW _ _ | .neg _ _ |
    .negc _ _ | .subR _ _ | .subc _ _ | .subv _ _ | .andR _ _ | .andImm _ | .andB _ | .notR _ _ | .orR _ _ |
    .orImm _ | .orB _ | .tasB _ | .tstR _ _ | .tstImm _ | .tstB _ | .xorR _ _ | .xorImm _ | .xorB _ | .rotl _
    | .rotr _ | .rotcl _ | .rotcr _ | .shal _ | .shar _ | .shll _ | .shlr _ | .shll2 _ | .shlr2 _ | .shll8 _ |
    .shlr8 _ | .shll16 _ | .shlr16 _ | .clrt | .clrmac | .ldcSr _ | .ldcGbr _ | .ldcVbr _ | .ldcLSr _ |
    .ldcLGbr _ | .ldcLVbr _ | .ldsMach _ | .ldsMacl _ | .ldsPr _ | .ldsLMach _ | .ldsLMacl _ | .ldsLPr _ |
    .nop | .sett | .sleep | .stcSr _ | .stcGbr _ | .stcVbr _ | .stcLSr _ | .stcLGbr _ | .stcLVbr _ | .stsMach
    _ | .stsMacl _ | .stsPr _ | .stsLMach _ | .stsLMacl _ | .stsLPr _ => false

/-- The instructions with a PC-relative data operand, which have no meaning in a delay slot (R254). -/
def Instr.hasPcOperand : Instr → Bool
  | .movWPc _ _ | .movLPc _ _ | .mova _ => true
  | .movImm _ _ | .mov _ _ | .movBStore _ _ | .movWStore _ _ | .movLStore _ _ | .movBLoad _ _ | .movWLoad _ _
    | .movLLoad _ _ | .movBStoreDec _ _ | .movWStoreDec _ _ | .movLStoreDec _ _ | .movBLoadInc _ _ |
    .movWLoadInc _ _ | .movLLoadInc _ _ | .movBStoreDisp _ _ | .movWStoreDisp _ _ | .movLStoreDisp _ _ _ |
    .movBLoadDisp _ _ | .movWLoadDisp _ _ | .movLLoadDisp _ _ _ | .movBStoreIdx _ _ | .movWStoreIdx _ _ |
    .movLStoreIdx _ _ | .movBLoadIdx _ _ | .movWLoadIdx _ _ | .movLLoadIdx _ _ | .movBStoreGbr _ |
    .movWStoreGbr _ | .movLStoreGbr _ | .movBLoadGbr _ | .movWLoadGbr _ | .movLLoadGbr _ | .movt _ | .swapB _
    _ | .swapW _ _ | .xtrct _ _ | .addR _ _ | .addImm _ _ | .addc _ _ | .addv _ _ | .cmpEqImm _ | .cmpEq _ _ |
    .cmpHs _ _ | .cmpGe _ _ | .cmpHi _ _ | .cmpGt _ _ | .cmpPz _ | .cmpPl _ | .cmpStr _ _ | .div1 _ _ | .div0s
    _ _ | .div0u | .dmulsL _ _ | .dmuluL _ _ | .dt _ | .extsB _ _ | .extsW _ _ | .extuB _ _ | .extuW _ _ |
    .macL _ _ | .macW _ _ | .mulL _ _ | .mulsW _ _ | .muluW _ _ | .neg _ _ | .negc _ _ | .subR _ _ | .subc _ _
    | .subv _ _ | .andR _ _ | .andImm _ | .andB _ | .notR _ _ | .orR _ _ | .orImm _ | .orB _ | .tasB _ | .tstR
    _ _ | .tstImm _ | .tstB _ | .xorR _ _ | .xorImm _ | .xorB _ | .rotl _ | .rotr _ | .rotcl _ | .rotcr _ |
    .shal _ | .shar _ | .shll _ | .shlr _ | .shll2 _ | .shlr2 _ | .shll8 _ | .shlr8 _ | .shll16 _ | .shlr16 _
    | .bf _ | .bfS _ | .bt _ | .btS _ | .bra _ | .braf _ | .bsr _ | .bsrf _ | .jmp _ | .jsr _ | .rts | .clrt |
    .clrmac | .ldcSr _ | .ldcGbr _ | .ldcVbr _ | .ldcLSr _ | .ldcLGbr _ | .ldcLVbr _ | .ldsMach _ | .ldsMacl _
    | .ldsPr _ | .ldsLMach _ | .ldsLMacl _ | .ldsLPr _ | .nop | .rte | .sett | .sleep | .stcSr _ | .stcGbr _ |
    .stcVbr _ | .stcLSr _ | .stcLGbr _ | .stcLVbr _ | .stsMach _ | .stsMacl _ | .stsPr _ | .stsLMach _ |
    .stsLMacl _ | .stsLPr _ | .trapa _ => false

/-- Well-formed at a position: anything where no delayed branch is pending; in a delay slot (`slot = true`) neither an
instruction of R253 nor one of R254 (R381). -/
def Instr.wellFormed (slot : Bool) (i : Instr) : Bool :=
  !slot || !(i.isBranchClass || i.hasPcOperand)

end Sys2Proof
end

