-- ==== Sys2Proof/Decode.lean ====
section
/-! DEFINITION. The decoder, total on any word and any bytes, and after it the encoder, both from the encodings of
30_encoding.md (R100 to R108) and tables 2.12 to 2.17. An instruction is one 16-bit word (R100), stored with its high
byte at the lower address (R62). -/

namespace Sys2Proof

/-- Why no instruction is read. -/
inductive DecodeError where
  /-- The word matches no row of the opcode table (R108). Raised by `decode`; safe: the machine takes the illegal
  instruction exception for it (R109). -/
  | undefinedWord (w : Half)
  /-- Fewer than two bytes were given. Raised by `decodeBytes` only; safe: the machine always fetches two bytes. -/
  | truncated
deriving DecidableEq, Repr

/-- The register a 4-bit register field selects (R103). -/
def reg (f : BitVec 4) : Reg := f.toFin

/-- The 4-bit field that selects a register (R103). -/
def field (r : Reg) : BitVec 4 := BitVec.ofFin r

/-- The words `0000 ....` (R106). -/
def decode0 (b c d : BitVec 4) : Option Instr :=
  match d.toNat with
  | 2 =>
    match c.toNat with
    | 0 => some (.stcSr (reg b))
    | 1 => some (.stcGbr (reg b))
    | 2 => some (.stcVbr (reg b))
    | _ => none
  | 3 =>
    match c.toNat with
    | 0 => some (.bsrf (reg b))
    | 2 => some (.braf (reg b))
    | _ => none
  | 4 => some (.movBStoreIdx (reg c) (reg b))
  | 5 => some (.movWStoreIdx (reg c) (reg b))
  | 6 => some (.movLStoreIdx (reg c) (reg b))
  | 7 => some (.mulL (reg c) (reg b))
  | 8 =>
    match c.toNat with
    | 0 => if b.toNat = 0 then some .clrt else none
    | 1 => if b.toNat = 0 then some .sett else none
    | 2 => if b.toNat = 0 then some .clrmac else none
    | _ => none
  | 9 =>
    match c.toNat with
    | 0 => if b.toNat = 0 then some .nop else none
    | 1 => if b.toNat = 0 then some .div0u else none
    | 2 => some (.movt (reg b))
    | _ => none
  | 10 =>
    match c.toNat with
    | 0 => some (.stsMach (reg b))
    | 1 => some (.stsMacl (reg b))
    | 2 => some (.stsPr (reg b))
    | _ => none
  | 11 =>
    match c.toNat with
    | 0 => if b.toNat = 0 then some .rts else none
    | 1 => if b.toNat = 0 then some .sleep else none
    | 2 => if b.toNat = 0 then some .rte else none
    | _ => none
  | 12 => some (.movBLoadIdx (reg c) (reg b))
  | 13 => some (.movWLoadIdx (reg c) (reg b))
  | 14 => some (.movLLoadIdx (reg c) (reg b))
  | 15 => some (.macL (reg c) (reg b))
  | _ => none

/-- The words `0010 ....` (R106). -/
def decode2 (b c d : BitVec 4) : Option Instr :=
  match d.toNat with
  | 0 => some (.movBStore (reg c) (reg b))
  | 1 => some (.movWStore (reg c) (reg b))
  | 2 => some (.movLStore (reg c) (reg b))
  | 4 => some (.movBStoreDec (reg c) (reg b))
  | 5 => some (.movWStoreDec (reg c) (reg b))
  | 6 => some (.movLStoreDec (reg c) (reg b))
  | 7 => some (.div0s (reg c) (reg b))
  | 8 => some (.tstR (reg c) (reg b))
  | 9 => some (.andR (reg c) (reg b))
  | 10 => some (.xorR (reg c) (reg b))
  | 11 => some (.orR (reg c) (reg b))
  | 12 => some (.cmpStr (reg c) (reg b))
  | 13 => some (.xtrct (reg c) (reg b))
  | 14 => some (.muluW (reg c) (reg b))
  | 15 => some (.mulsW (reg c) (reg b))
  | _ => none

/-- The words `0011 ....` (R106). -/
def decode3 (b c d : BitVec 4) : Option Instr :=
  match d.toNat with
  | 0 => some (.cmpEq (reg c) (reg b))
  | 2 => some (.cmpHs (reg c) (reg b))
  | 3 => some (.cmpGe (reg c) (reg b))
  | 4 => some (.div1 (reg c) (reg b))
  | 5 => some (.dmuluL (reg c) (reg b))
  | 6 => some (.cmpHi (reg c) (reg b))
  | 7 => some (.cmpGt (reg c) (reg b))
  | 8 => some (.subR (reg c) (reg b))
  | 10 => some (.subc (reg c) (reg b))
  | 11 => some (.subv (reg c) (reg b))
  | 12 => some (.addR (reg c) (reg b))
  | 13 => some (.dmulsL (reg c) (reg b))
  | 14 => some (.addc (reg c) (reg b))
  | 15 => some (.addv (reg c) (reg b))
  | _ => none

/-- The words `0100 ....` (R106). -/
def decode4 (b c d : BitVec 4) : Option Instr :=
  match d.toNat with
  | 0 =>
    match c.toNat with
    | 0 => some (.shll (reg b))
    | 1 => some (.dt (reg b))
    | 2 => some (.shal (reg b))
    | _ => none
  | 1 =>
    match c.toNat with
    | 0 => some (.shlr (reg b))
    | 1 => some (.cmpPz (reg b))
    | 2 => some (.shar (reg b))
    | _ => none
  | 2 =>
    match c.toNat with
    | 0 => some (.stsLMach (reg b))
    | 1 => some (.stsLMacl (reg b))
    | 2 => some (.stsLPr (reg b))
    | _ => none
  | 3 =>
    match c.toNat with
    | 0 => some (.stcLSr (reg b))
    | 1 => some (.stcLGbr (reg b))
    | 2 => some (.stcLVbr (reg b))
    | _ => none
  | 4 =>
    match c.toNat with
    | 0 => some (.rotl (reg b))
    | 2 => some (.rotcl (reg b))
    | _ => none
  | 5 =>
    match c.toNat with
    | 0 => some (.rotr (reg b))
    | 1 => some (.cmpPl (reg b))
    | 2 => some (.rotcr (reg b))
    | _ => none
  | 6 =>
    match c.toNat with
    | 0 => some (.ldsLMach (reg b))
    | 1 => some (.ldsLMacl (reg b))
    | 2 => some (.ldsLPr (reg b))
    | _ => none
  | 7 =>
    match c.toNat with
    | 0 => some (.ldcLSr (reg b))
    | 1 => some (.ldcLGbr (reg b))
    | 2 => some (.ldcLVbr (reg b))
    | _ => none
  | 8 =>
    match c.toNat with
    | 0 => some (.shll2 (reg b))
    | 1 => some (.shll8 (reg b))
    | 2 => some (.shll16 (reg b))
    | _ => none
  | 9 =>
    match c.toNat with
    | 0 => some (.shlr2 (reg b))
    | 1 => some (.shlr8 (reg b))
    | 2 => some (.shlr16 (reg b))
    | _ => none
  | 10 =>
    match c.toNat with
    | 0 => some (.ldsMach (reg b))
    | 1 => some (.ldsMacl (reg b))
    | 2 => some (.ldsPr (reg b))
    | _ => none
  | 11 =>
    match c.toNat with
    | 0 => some (.jsr (reg b))
    | 1 => some (.tasB (reg b))
    | 2 => some (.jmp (reg b))
    | _ => none
  | 14 =>
    match c.toNat with
    | 0 => some (.ldcSr (reg b))
    | 1 => some (.ldcGbr (reg b))
    | 2 => some (.ldcVbr (reg b))
    | _ => none
  | 15 => some (.macW (reg c) (reg b))
  | _ => none

/-- The words `0110 ....` (R106). -/
def decode6 (b c d : BitVec 4) : Option Instr :=
  match d.toNat with
  | 0 => some (.movBLoad (reg c) (reg b))
  | 1 => some (.movWLoad (reg c) (reg b))
  | 2 => some (.movLLoad (reg c) (reg b))
  | 3 => some (.mov (reg c) (reg b))
  | 4 => some (.movBLoadInc (reg c) (reg b))
  | 5 => some (.movWLoadInc (reg c) (reg b))
  | 6 => some (.movLLoadInc (reg c) (reg b))
  | 7 => some (.notR (reg c) (reg b))
  | 8 => some (.swapB (reg c) (reg b))
  | 9 => some (.swapW (reg c) (reg b))
  | 10 => some (.negc (reg c) (reg b))
  | 11 => some (.neg (reg c) (reg b))
  | 12 => some (.extuB (reg c) (reg b))
  | 13 => some (.extuW (reg c) (reg b))
  | 14 => some (.extsB (reg c) (reg b))
  | 15 => some (.extsW (reg c) (reg b))
  | _ => none

/-- The words `1000 ....` (R106). -/
def decode8 (b c d : BitVec 4) : Option Instr :=
  match b.toNat with
  | 0 => some (.movBStoreDisp d (reg c))
  | 1 => some (.movWStoreDisp d (reg c))
  | 4 => some (.movBLoadDisp d (reg c))
  | 5 => some (.movWLoadDisp d (reg c))
  | 8 => some (.cmpEqImm (c ++ d))
  | 9 => some (.bt (c ++ d))
  | 11 => some (.bf (c ++ d))
  | 13 => some (.btS (c ++ d))
  | 15 => some (.bfS (c ++ d))
  | _ => none

/-- The words `1100 ....` (R106). -/
def decodeC (b c d : BitVec 4) : Option Instr :=
  match b.toNat with
  | 0 => some (.movBStoreGbr (c ++ d))
  | 1 => some (.movWStoreGbr (c ++ d))
  | 2 => some (.movLStoreGbr (c ++ d))
  | 3 => some (.trapa (c ++ d))
  | 4 => some (.movBLoadGbr (c ++ d))
  | 5 => some (.movWLoadGbr (c ++ d))
  | 6 => some (.movLLoadGbr (c ++ d))
  | 7 => some (.mova (c ++ d))
  | 8 => some (.tstImm (c ++ d))
  | 9 => some (.andImm (c ++ d))
  | 10 => some (.xorImm (c ++ d))
  | 11 => some (.orImm (c ++ d))
  | 12 => some (.tstB (c ++ d))
  | 13 => some (.andB (c ++ d))
  | 14 => some (.xorB (c ++ d))
  | 15 => some (.orB (c ++ d))
  | _ => none

/-- The opcode map by the four nibbles of a word, bits 15:12 first (R106, R107). -/
def decodeNibbles (a b c d : BitVec 4) : Option Instr :=
  match a.toNat with
  | 0 => decode0 b c d
  | 1 => some (.movLStoreDisp (reg c) d (reg b))
  | 2 => decode2 b c d
  | 3 => decode3 b c d
  | 4 => decode4 b c d
  | 5 => some (.movLLoadDisp d (reg c) (reg b))
  | 6 => decode6 b c d
  | 7 => some (.addImm (c ++ d) (reg b))
  | 8 => decode8 b c d
  | 9 => some (.movWPc (c ++ d) (reg b))
  | 10 => some (.bra (b ++ c ++ d))
  | 11 => some (.bsr (b ++ c ++ d))
  | 12 => decodeC b c d
  | 13 => some (.movLPc (c ++ d) (reg b))
  | 14 => some (.movImm (c ++ d) (reg b))
  | _ => none

/-- The instruction a 16-bit word stands for; an undefined word is rejected by name (R107, R108). -/
def decode (w : Half) : Except DecodeError Instr :=
  match decodeNibbles (w.extractLsb' 12 4) (w.extractLsb' 8 4) (w.extractLsb' 4 4) (w.extractLsb' 0 4) with
  | some i => .ok i
  | none => .error (.undefinedWord w)

/-- The instruction the first two bytes stand for, the high byte first (R62, R68), and the bytes after it. -/
def decodeBytes : List Byte → Except DecodeError (Instr × List Byte)
  | hi :: lo :: rest =>
    match decode (hi ++ lo) with
    | .ok i => .ok (i, rest)
    | .error e => .error e
  | _ => .error .truncated

/-- The two bytes of a word in the order they are stored, high byte first (R62). -/
def wordBytes (w : Half) : List Byte := [w.extractLsb' 8 8, w.extractLsb' 0 8]

/-- The host's question: the instruction read from a word given as a number of `nbits` bits (R107). -/
def decodeTableWord (nbits w : Nat) : Option Instr :=
  match decodeBytes (wordBytes (BitVec.ofNat 16 (w % 2 ^ nbits))) with
  | .ok (i, _) => some i
  | .error _ => none

/-- The code of an instruction, written from the instruction-code columns of tables 2.12 to 2.17: fixed bits,
register fields, immediate or displacement, bit 15 first (R101, R102). -/
def encode : Instr → Half
  -- Data transfer (40_data_transfer.md)
  | .movImm imm n => 0b1110#4 ++ field n ++ imm
  | .movWPc d n => 0b1001#4 ++ field n ++ d
  | .movLPc d n => 0b1101#4 ++ field n ++ d
  | .mov m n => 0b0110#4 ++ field n ++ field m ++ 0b0011#4
  | .movBStore m n => 0b0010#4 ++ field n ++ field m ++ 0b0000#4
  | .movWStore m n => 0b0010#4 ++ field n ++ field m ++ 0b0001#4
  | .movLStore m n => 0b0010#4 ++ field n ++ field m ++ 0b0010#4
  | .movBLoad m n => 0b0110#4 ++ field n ++ field m ++ 0b0000#4
  | .movWLoad m n => 0b0110#4 ++ field n ++ field m ++ 0b0001#4
  | .movLLoad m n => 0b0110#4 ++ field n ++ field m ++ 0b0010#4
  | .movBStoreDec m n => 0b0010#4 ++ field n ++ field m ++ 0b0100#4
  | .movWStoreDec m n => 0b0010#4 ++ field n ++ field m ++ 0b0101#4
  | .movLStoreDec m n => 0b0010#4 ++ field n ++ field m ++ 0b0110#4
  | .movBLoadInc m n => 0b0110#4 ++ field n ++ field m ++ 0b0100#4
  | .movWLoadInc m n => 0b0110#4 ++ field n ++ field m ++ 0b0101#4
  | .movLLoadInc m n => 0b0110#4 ++ field n ++ field m ++ 0b0110#4
  | .movBStoreDisp d n => 0b10000000#8 ++ field n ++ d
  | .movWStoreDisp d n => 0b10000001#8 ++ field n ++ d
  | .movLStoreDisp m d n => 0b0001#4 ++ field n ++ field m ++ d
  | .movBLoadDisp d m => 0b10000100#8 ++ field m ++ d
  | .movWLoadDisp d m => 0b10000101#8 ++ field m ++ d
  | .movLLoadDisp d m n => 0b0101#4 ++ field n ++ field m ++ d
  | .movBStoreIdx m n => 0b0000#4 ++ field n ++ field m ++ 0b0100#4
  | .movWStoreIdx m n => 0b0000#4 ++ field n ++ field m ++ 0b0101#4
  | .movLStoreIdx m n => 0b0000#4 ++ field n ++ field m ++ 0b0110#4
  | .movBLoadIdx m n => 0b0000#4 ++ field n ++ field m ++ 0b1100#4
  | .movWLoadIdx m n => 0b0000#4 ++ field n ++ field m ++ 0b1101#4
  | .movLLoadIdx m n => 0b0000#4 ++ field n ++ field m ++ 0b1110#4
  | .movBStoreGbr d => 0b11000000#8 ++ d
  | .movWStoreGbr d => 0b11000001#8 ++ d
  | .movLStoreGbr d => 0b11000010#8 ++ d
  | .movBLoadGbr d => 0b11000100#8 ++ d
  | .movWLoadGbr d => 0b11000101#8 ++ d
  | .movLLoadGbr d => 0b11000110#8 ++ d
  | .mova d => 0b11000111#8 ++ d
  | .movt n => 0b0000#4 ++ field n ++ 0b00101001#8
  | .swapB m n => 0b0110#4 ++ field n ++ field m ++ 0b1000#4
  | .swapW m n => 0b0110#4 ++ field n ++ field m ++ 0b1001#4
  | .xtrct m n => 0b0010#4 ++ field n ++ field m ++ 0b1101#4
  -- Arithmetic (41_arithmetic.md)
  | .addR m n => 0b0011#4 ++ field n ++ field m ++ 0b1100#4
  | .addImm imm n => 0b0111#4 ++ field n ++ imm
  | .addc m n => 0b0011#4 ++ field n ++ field m ++ 0b1110#4
  | .addv m n => 0b0011#4 ++ field n ++ field m ++ 0b1111#4
  | .cmpEqImm imm => 0b10001000#8 ++ imm
  | .cmpEq m n => 0b0011#4 ++ field n ++ field m ++ 0b0000#4
  | .cmpHs m n => 0b0011#4 ++ field n ++ field m ++ 0b0010#4
  | .cmpGe m n => 0b0011#4 ++ field n ++ field m ++ 0b0011#4
  | .cmpHi m n => 0b0011#4 ++ field n ++ field m ++ 0b0110#4
  | .cmpGt m n => 0b0011#4 ++ field n ++ field m ++ 0b0111#4
  | .cmpPz n => 0b0100#4 ++ field n ++ 0b00010001#8
  | .cmpPl n => 0b0100#4 ++ field n ++ 0b00010101#8
  | .cmpStr m n => 0b0010#4 ++ field n ++ field m ++ 0b1100#4
  | .div1 m n => 0b0011#4 ++ field n ++ field m ++ 0b0100#4
  | .div0s m n => 0b0010#4 ++ field n ++ field m ++ 0b0111#4
  | .div0u => 0b0000000000011001#16
  | .dmulsL m n => 0b0011#4 ++ field n ++ field m ++ 0b1101#4
  | .dmuluL m n => 0b0011#4 ++ field n ++ field m ++ 0b0101#4
  | .dt n => 0b0100#4 ++ field n ++ 0b00010000#8
  | .extsB m n => 0b0110#4 ++ field n ++ field m ++ 0b1110#4
  | .extsW m n => 0b0110#4 ++ field n ++ field m ++ 0b1111#4
  | .extuB m n => 0b0110#4 ++ field n ++ field m ++ 0b1100#4
  | .extuW m n => 0b0110#4 ++ field n ++ field m ++ 0b1101#4
  | .macL m n => 0b0000#4 ++ field n ++ field m ++ 0b1111#4
  | .macW m n => 0b0100#4 ++ field n ++ field m ++ 0b1111#4
  | .mulL m n => 0b0000#4 ++ field n ++ field m ++ 0b0111#4
  | .mulsW m n => 0b0010#4 ++ field n ++ field m ++ 0b1111#4
  | .muluW m n => 0b0010#4 ++ field n ++ field m ++ 0b1110#4
  | .neg m n => 0b0110#4 ++ field n ++ field m ++ 0b1011#4
  | .negc m n => 0b0110#4 ++ field n ++ field m ++ 0b1010#4
  | .subR m n => 0b0011#4 ++ field n ++ field m ++ 0b1000#4
  | .subc m n => 0b0011#4 ++ field n ++ field m ++ 0b1010#4
  | .subv m n => 0b0011#4 ++ field n ++ field m ++ 0b1011#4
  -- Logic (42_logic.md)
  | .andR m n => 0b0010#4 ++ field n ++ field m ++ 0b1001#4
  | .andImm imm => 0b11001001#8 ++ imm
  | .andB imm => 0b11001101#8 ++ imm
  | .notR m n => 0b0110#4 ++ field n ++ field m ++ 0b0111#4
  | .orR m n => 0b0010#4 ++ field n ++ field m ++ 0b1011#4
  | .orImm imm => 0b11001011#8 ++ imm
  | .orB imm => 0b11001111#8 ++ imm
  | .tasB n => 0b0100#4 ++ field n ++ 0b00011011#8
  | .tstR m n => 0b0010#4 ++ field n ++ field m ++ 0b1000#4
  | .tstImm imm => 0b11001000#8 ++ imm
  | .tstB imm => 0b11001100#8 ++ imm
  | .xorR m n => 0b0010#4 ++ field n ++ field m ++ 0b1010#4
  | .xorImm imm => 0b11001010#8 ++ imm
  | .xorB imm => 0b11001110#8 ++ imm
  -- Shift (43_shift.md)
  | .rotl n => 0b0100#4 ++ field n ++ 0b00000100#8
  | .rotr n => 0b0100#4 ++ field n ++ 0b00000101#8
  | .rotcl n => 0b0100#4 ++ field n ++ 0b00100100#8
  | .rotcr n => 0b0100#4 ++ field n ++ 0b00100101#8
  | .shal n => 0b0100#4 ++ field n ++ 0b00100000#8
  | .shar n => 0b0100#4 ++ field n ++ 0b00100001#8
  | .shll n => 0b0100#4 ++ field n ++ 0b00000000#8
  | .shlr n => 0b0100#4 ++ field n ++ 0b00000001#8
  | .shll2 n => 0b0100#4 ++ field n ++ 0b00001000#8
  | .shlr2 n => 0b0100#4 ++ field n ++ 0b00001001#8
  | .shll8 n => 0b0100#4 ++ field n ++ 0b00011000#8
  | .shlr8 n => 0b0100#4 ++ field n ++ 0b00011001#8
  | .shll16 n => 0b0100#4 ++ field n ++ 0b00101000#8
  | .shlr16 n => 0b0100#4 ++ field n ++ 0b00101001#8
  -- Branch (44_branch.md)
  | .bf d => 0b10001011#8 ++ d
  | .bfS d => 0b10001111#8 ++ d
  | .bt d => 0b10001001#8 ++ d
  | .btS d => 0b10001101#8 ++ d
  | .bra d => 0b1010#4 ++ d
  | .braf m => 0b0000#4 ++ field m ++ 0b00100011#8
  | .bsr d => 0b1011#4 ++ d
  | .bsrf m => 0b0000#4 ++ field m ++ 0b00000011#8
  | .jmp m => 0b0100#4 ++ field m ++ 0b00101011#8
  | .jsr m => 0b0100#4 ++ field m ++ 0b00001011#8
  | .rts => 0b0000000000001011#16
  -- System control (45_system_control.md)
  | .clrt => 0b0000000000001000#16
  | .clrmac => 0b0000000000101000#16
  | .ldcSr m => 0b0100#4 ++ field m ++ 0b00001110#8
  | .ldcGbr m => 0b0100#4 ++ field m ++ 0b00011110#8
  | .ldcVbr m => 0b0100#4 ++ field m ++ 0b00101110#8
  | .ldcLSr m => 0b0100#4 ++ field m ++ 0b00000111#8
  | .ldcLGbr m => 0b0100#4 ++ field m ++ 0b00010111#8
  | .ldcLVbr m => 0b0100#4 ++ field m ++ 0b00100111#8
  | .ldsMach m => 0b0100#4 ++ field m ++ 0b00001010#8
  | .ldsMacl m => 0b0100#4 ++ field m ++ 0b00011010#8
  | .ldsPr m => 0b0100#4 ++ field m ++ 0b00101010#8
  | .ldsLMach m => 0b0100#4 ++ field m ++ 0b00000110#8
  | .ldsLMacl m => 0b0100#4 ++ field m ++ 0b00010110#8
  | .ldsLPr m => 0b0100#4 ++ field m ++ 0b00100110#8
  | .nop => 0b0000000000001001#16
  | .rte => 0b0000000000101011#16
  | .sett => 0b0000000000011000#16
  | .sleep => 0b0000000000011011#16
  | .stcSr n => 0b0000#4 ++ field n ++ 0b00000010#8
  | .stcGbr n => 0b0000#4 ++ field n ++ 0b00010010#8
  | .stcVbr n => 0b0000#4 ++ field n ++ 0b00100010#8
  | .stcLSr n => 0b0100#4 ++ field n ++ 0b00000011#8
  | .stcLGbr n => 0b0100#4 ++ field n ++ 0b00010011#8
  | .stcLVbr n => 0b0100#4 ++ field n ++ 0b00100011#8
  | .stsMach n => 0b0000#4 ++ field n ++ 0b00001010#8
  | .stsMacl n => 0b0000#4 ++ field n ++ 0b00011010#8
  | .stsPr n => 0b0000#4 ++ field n ++ 0b00101010#8
  | .stsLMach n => 0b0100#4 ++ field n ++ 0b00000010#8
  | .stsLMacl n => 0b0100#4 ++ field n ++ 0b00010010#8
  | .stsLPr n => 0b0100#4 ++ field n ++ 0b00100010#8
  | .trapa imm => 0b11000011#8 ++ imm

end Sys2Proof
end

