-- ==== Sys2Proof/Machine/Params.lean ====
section
/-! DEFINITION. The parameters the spec leaves open with a decided default (R6; 92_eei_decisions.md): the value of PC
in operands, the layout of SR, the vector numbers. -/

namespace Sys2Proof.Machine

/-- `PC_OFFSET`: what "PC" means in an operand, from the address of the executing instruction (R35, D1); log 1. -/
def pcOffset : Word := 4

/-- Bit positions of the SR flags (R24, D2); log 2. -/
def bitT : Nat := 0
def bitS : Nat := 1
def bitQ : Nat := 8
def bitM : Nat := 9

/-- `SR_MASK`: the defined bits of SR; the others read 0 and drop writes (R29, D2). -/
def srMask : Word := 0x000003F3

/-- Vector numbers (R326, D8); log 9. -/
def vecGeneralIllegal : BitVec 8 := 4
def vecSlotIllegal : BitVec 8 := 6
def vecAddressError : BitVec 8 := 9
def vecDmaAddressError : BitVec 8 := 10
def vecNmi : BitVec 8 := 11

end Sys2Proof.Machine
end

