-- ==== Sys2Proof/Config.lean ====
section
/-! DEFINITION. The free values: what the spec leaves unstated after an instruction that goes on. Each is an opaque
constant, so no proof can lean on a value of it. `tick` is the number of the step (State.tick), which makes
every step's free values its own; log 39. -/

namespace Sys2Proof.Config

/-- The byte a device register returns (R66, R74): step `tick`, access number `k` of that step, address `addr`; log 28. -/
opaque deviceByte (tick k addr : Nat) : Byte

/-- Whether base register number `k` of an instruction whose access was misaligned holds the updated value, not the
old one (U2, R65, R323); log 5. -/
opaque baseUpdated (tick k : Nat) : Bool

/-- A register whose value the spec calls undefined at this point: SR after a misaligned `LDC.L @Rm+,SR`
(R285; log 6), MACH and MACL after standby (U10; log 34), the registers that a reset transition leaves undefined (R371;
log 37). `k` tells the registers of one step apart. -/
opaque undefinedWord (tick k : Nat) : Word

/-- A byte of on-chip RAM after standby mode (U9, R356); log 34. -/
opaque standbyByte (tick addr : Nat) : Byte

end Sys2Proof.Config
end

