-- ==== Sys2Proof/Machine/State.lean ====
section
/-! DEFINITION. The state of the machine as plain data: every register and every piece of model state of 10_state.md,
memory, and what the platform presents at the coming instruction boundaries; the reasons a step can stop; the
state after reset. INVENTORY.md lists each field with its rule. -/

namespace Sys2Proof.Machine

/-- The processing states of R37 in which a step can begin. Reset and exception processing are each folded into one
transition (log 35), so no state rests in them. -/
inductive Mode where
  /-- Program execution. -/
  | run
  /-- Sleep mode (R355). -/
  | sleep
  /-- Standby mode (R356). -/
  | standby
  /-- The bus belongs to another device (R77, R353). -/
  | busReleased
deriving DecidableEq, Repr

/-- The two kinds of reset (R370): NMI high or low while \RES is low. -/
inductive ResetKind where
  | powerOn
  | manual
deriving DecidableEq, Repr

/-- An interrupt request of `IntSource` (R334): NMI, which is level 16 with vector 11, or a level 0 to 15 with its
vector number. -/
inductive Request where
  | nmi
  | irq (level : BitVec 4) (vector : BitVec 8)
deriving DecidableEq, Repr

/-- The power control the CPU chapter names: SBYCR's SBY bit and its module-stop bits MSTP4 to MSTP0, held by module
because the spec does not say which bit is which (R39, R357), and bit 0 of DMAOR (R352); log 32. -/
structure Platform where
  sby : Bool
  stopMult : Bool
  stopDivu : Bool
  stopFrt : Bool
  stopSci : Bool
  stopDmac : Bool
  dme : Bool
deriving DecidableEq, Repr

/-- What the platform presents at one instruction boundary; log 38. -/
structure Input where
  /-- \RES is low, with the kind the NMI pin selects (R370). -/
  reset : Option ResetKind
  /-- The bus is released to another master, which makes these byte writes meanwhile (R77, R353); log 36. -/
  bus : Option (List (Word × Byte))
  /-- What other masters write between the CPU's accesses in this step (R75, R353): entry k comes before the step's data
  access number k + 1; log 36. -/
  between : List (List (Word × Byte))
  /-- The DMA controller raises an address error (R324). -/
  dmaError : Bool
  /-- The pending interrupt requests (R334). -/
  requests : List Request
  /-- New contents of SBYCR and DMAOR bit 0, as the platform's registers now hold them (D33). -/
  platform : Option Platform
deriving DecidableEq, Repr

/-- Nothing is presented. -/
def Input.idle : Input :=
  { reset := none, bus := none, between := [], dmaError := false, requests := [], platform := none }

/-- What lies in a region of the address space (`MemMap`, R6, R82); log 27. -/
inductive RegionKind where
  | ram
  | rom
  /-- On-chip RAM: RAM that standby mode does not preserve (R356, U9). -/
  | onChipRam
  /-- Peripheral registers (R66, R74). -/
  | device
  /-- Nothing (R82, U3). -/
  | absent
deriving DecidableEq, Repr

/-- The `size` addresses from `base` on hold `kind`. -/
structure Region where
  base : Nat
  size : Nat
  kind : RegionKind
deriving DecidableEq, Repr

/-- The machine. -/
structure State where
  /-- R0 to R15 (R21); R15 is the stack pointer (R23). -/
  regs : Vector Word 16
  /-- The status register (R24). -/
  sr : Word
  /-- The global base register (R30). -/
  gbr : Word
  /-- The vector base register (R31). -/
  vbr : Word
  /-- The high multiply and accumulate register (R32). -/
  mach : Word
  /-- The low multiply and accumulate register (R32). -/
  macl : Word
  /-- The procedure register (R33). -/
  pr : Word
  /-- The address of the instruction being executed (R34). -/
  pc : Word
  /-- The target of the delayed branch whose slot comes next (R36). -/
  delay : Option Word
  /-- The processing state (R37). -/
  mode : Mode
  /-- A multiplication instruction has executed since MACH was last written by LDS, LDS.L or CLRMAC (R38 a). -/
  multSinceMach : Bool
  /-- The same for MACL. -/
  multSinceMacl : Bool
  /-- SBYCR and DMAOR bit 0 (R39, R352). -/
  platform : Platform
  /-- Memory: the bytes that differ from what an unlisted address reads as, addresses strictly rising; log 25. -/
  mem : List Host.Cell
  /-- The memory map (R60, R82): the first region that holds an address decides; RAM where none does; log 27. -/
  map : List Region
  /-- The model's own: the addresses whose bytes may no longer be fetched, because a store of this run wrote them, or another
  master wrote them after they were fetched; strictly rising (R78, D16); log 23. -/
  storedAt : List Nat
  /-- The model's own: the addresses instructions of this run were fetched from, strictly rising (R78); log 23. -/
  fetchedAt : List Nat
  /-- What the platform presents at the coming boundaries, the next one first; nothing after the last; log 38. -/
  inputs : List Input
  /-- What other masters write before the coming data accesses of this step, the next access first (R75, R353); log 36. -/
  between : List (List (Word × Byte))
  /-- The model's own: the number of the step, to which the free values are applied; log 39. -/
  tick : Nat
deriving DecidableEq, Repr

/-- Why the machine stops in error. -/
inductive Fault where
  /-- An address error or an access to nothing inside exception entry (R339, U7). Raised by `exceptionEntry`; safe:
  the spec makes it a terminal fault state. -/
  | exceptionEntry
  /-- The vector table cannot be read at reset (R374, U7). Raised by `resetSequence`; safe: a terminal fault state. -/
  | resetVector
  /-- An access or a fetch at an address where the memory map has nothing (R82, U3). Raised by `memRead`, `memWrite` and
  `fetch`; safe: the spec has no step there. -/
  | absentAddress
  /-- A store to ROM (R82, U3). Raised by `memWrite`; safe: the spec has no step there. -/
  | romStore
deriving DecidableEq, Repr

/-- Why the machine gives no meaning. -/
inductive Refusal where
  /-- The instruction has no meaning in this model yet. Raised by `exec`'s arms only; safe. -/
  | notModelled (mnemonic : String)
  /-- MOV.W or MOV.L with a PC-relative operand or MOVA stands in a delay slot (R254, U4). Safe: the spec has a model
  refuse it. -/
  | pcRelativeInDelaySlot
  /-- BF/S or BT/S does not branch and a branch-class word follows (R256, U5). Safe: the spec has a model refuse it. -/
  | branchAfterUntakenDelayedBranch
  /-- A multiplication or an access to MACH or MACL while MULT is in module standby (R384, U8). Safe: the spec has a
  model refuse it. -/
  | multiplierInModuleStandby
  /-- A fetch from a byte that a store of this run wrote, or that another master wrote after an earlier fetch of it (R78,
  R387, D16). Raised by `fetch`; safe: the spec has a model refuse it. -/
  | selfModifiedCode
deriving DecidableEq, Repr

/-- The outcome of one instruction or one step. -/
abbrev Result := Host.Outcome State Fault Refusal

/-- The platform's power control at reset: SBY = 0 (D33), no module stopped (R384), the DMA master disabled; log 32. -/
def Platform.initial : Platform :=
  { sby := false, stopMult := false, stopDivu := false, stopFrt := false, stopSci := false, stopDmac := false,
    dme := false }

/-- The machine right after power-on reset (R40, R371). Stated by the spec: I3-I0 = 1111, reserved SR bits 0, VBR = 0,
`delay` none, `mode` run, PC and R15 the longwords at H'0 and H'4 of the vector table, which are 0 in a memory where
nothing is listed (log 25). Every other register is "Undefined" there; the model names 0 (DESIGN CHOICE, log 24). -/
def State.reset : State where
  regs := Vector.replicate 16 0
  sr := 0x000000F0
  gbr := 0
  vbr := 0
  mach := 0
  macl := 0
  pr := 0
  pc := 0
  delay := none
  mode := .run
  multSinceMach := false
  multSinceMacl := false
  platform := Platform.initial
  mem := []
  map := []
  storedAt := []
  fetchedAt := []
  inputs := []
  between := []
  tick := 0

end Sys2Proof.Machine
end

