-- ==== Sys2Proof/Machine/Flags.lean ====
section
/-! DEFINITION. The fields of SR (R24 to R29) and every flag and arithmetic result that an instruction computes: carry,
borrow, overflow (R203, D37), comparisons, the DIV1 step (R183), products and accumulation (R186 to R197). -/

namespace Sys2Proof.Machine

/-! ### SR and its fields -/

/-- `w` with bit `i` made `b`. -/
def setBit (w : Word) (i : Nat) (b : Bool) : Word :=
  if b then w ||| BitVec.twoPow 32 i else w &&& ~~~BitVec.twoPow 32 i

/-- SR.T (R25). -/
def State.t (s : State) : Bool := s.sr.getLsbD bitT

/-- SR.S (R26). -/
def State.sBit (s : State) : Bool := s.sr.getLsbD bitS

/-- SR.Q (R27). -/
def State.q (s : State) : Bool := s.sr.getLsbD bitQ

/-- SR.M (R27). -/
def State.m (s : State) : Bool := s.sr.getLsbD bitM

/-- SR.I, the interrupt mask level, I3 the most significant (R28). -/
def State.imask (s : State) : BitVec 4 := s.sr.extractLsb' 4 4

/-- Write SR.T, nothing else. -/
def State.setT (s : State) (b : Bool) : State := { s with sr := setBit s.sr bitT b }

/-- Write SR.Q, nothing else. -/
def State.setQ (s : State) (b : Bool) : State := { s with sr := setBit s.sr bitQ b }

/-- Write SR.M, nothing else. -/
def State.setM (s : State) (b : Bool) : State := { s with sr := setBit s.sr bitM b }

/-- An SR value with its I field replaced (R28). -/
def srWithMask (sr : Word) (level : BitVec 4) : Word := (sr &&& ~~~(0xF0 : Word)) ||| (level.setWidth 32 <<< 4)

/-- What reading SR gives, to STC and to exception entry: the defined bits, 0 in the reserved ones (R29, D40). -/
def State.srValue (s : State) : Word := s.sr &&& srMask

/-- Write the whole of SR: reserved bits drop what is written (R29, R311). -/
def State.setSr (s : State) (v : Word) : State := { s with sr := v &&& srMask }

/-! ### Sign and zero extension of a datum -/

/-- Sign extension of the low byte (R8, R42). -/
def sextByte (v : Word) : Word := (v.setWidth 8).signExtend 32

/-- Sign extension of the low word (R8, R42). -/
def sextWord (v : Word) : Word := (v.setWidth 16).signExtend 32

/-- Zero extension of the low byte. -/
def zextByte (v : Word) : Word := (v.setWidth 8).setWidth 32

/-- Zero extension of the low word. -/
def zextWord (v : Word) : Word := (v.setWidth 16).setWidth 32

/-! ### Carry, borrow, overflow -/

/-- A flag as a 32-bit number. -/
def flagWord (b : Bool) : Word := BitVec.setWidth 32 (BitVec.ofBool b)

/-- The carry out of bit 31 of `x + y + c` (R203, D37). -/
def carryOut (x y : Word) (c : Bool) : Bool := decide (2 ^ 32 ≤ x.toNat + y.toNat + c.toNat)

/-- The borrow into bit 31 of `x - y - c`: the true difference is negative (R203, D37). -/
def borrowOut (x y : Word) (c : Bool) : Bool := decide (x.toNat < y.toNat + c.toNat)

/-- Signed overflow of `x + y` as R173 computes it. -/
def addOverflow (x y : Word) : Bool := (x.msb == y.msb) && ((x + y).msb != x.msb)

/-- Signed overflow of `x - y`, in either direction, as R202 computes it. -/
def subOverflow (x y : Word) : Bool := (x.msb != y.msb) && ((x - y).msb != x.msb)

/-! ### Comparisons -/

/-- Some byte of `x` equals the byte of `y` at the same position (R182, D38). -/
def someByteEqual (x y : Word) : Bool :=
  let d := x ^^^ y
  d.extractLsb' 24 8 == 0 || d.extractLsb' 16 8 == 0 || d.extractLsb' 8 8 == 0 || d.extractLsb' 0 8 == 0

/-! ### The DIV1 step -/

/-- What one DIV1 leaves: the partial remainder, Q and T. -/
structure DivStep where
  rem : Word
  q : Bool
  t : Bool
deriving DecidableEq, Repr

/-- One step of non-restoring division (R183, D19; log 17). `x` is Rn, `y` the divisor Rm, `same` says that both are
one register; then the divisor is the shifted value. -/
def div1Step (x y : Word) (same q m t : Bool) : DivStep :=
  let a := (x <<< 1) ||| flagWord t
  let b := if same then a else y
  let r := if q == m then a - b else a + b
  let c := if q == m then borrowOut a b false else carryOut a b false
  let q' := x.msb ^^ m ^^ c
  { rem := r, q := q', t := q' == m }

/-! ### Products and accumulation -/

/-- The 64-bit pair MACH : MACL (R32). -/
def State.mac (s : State) : BitVec 64 := s.mach ++ s.macl

/-- Write the pair, MACH the high half (R32). -/
def State.setMac (s : State) (v : BitVec 64) : State :=
  { s with mach := v.extractLsb' 32 32, macl := v.extractLsb' 0 32 }

/-- The exact signed 64-bit product (R186). -/
def signedProduct (x y : Word) : BitVec 64 := BitVec.ofInt 64 (x.toInt * y.toInt)

/-- The exact unsigned 64-bit product (R187). -/
def unsignedProduct (x y : Word) : BitVec 64 := BitVec.ofNat 64 (x.toNat * y.toNat)

/-- `v` limited to `lo … hi`. -/
def clamp (lo hi v : Int) : Int := if v < lo then lo else if hi < v then hi else v

/-- MAC.L's accumulator: exact modulo 2^64 with S = 0, limited to the 48-bit signed range with S = 1 (R193, D18; log
16). `p` is the exact product. -/
def macLong (acc : BitVec 64) (p : Int) (saturate : Bool) : BitVec 64 :=
  if saturate then BitVec.ofInt 64 (clamp (-2 ^ 47) (2 ^ 47 - 1) (acc.toInt + p))
  else BitVec.ofInt 64 (acc.toInt + p)

/-- MAC.W's accumulator with S = 1: MACL limited to the 32-bit signed range, and bit 0 of MACH set when it was limited
(R194, D18; log 16). -/
def macWordSaturated (mach macl : Word) (p : Int) : BitVec 64 :=
  let sum := macl.toInt + p
  if -2 ^ 31 ≤ sum ∧ sum ≤ 2 ^ 31 - 1 then mach ++ BitVec.ofInt 32 sum
  else (mach ||| 1) ++ (if sum < 0 then 0x80000000 else 0x7FFFFFFF : Word)

/-- MAC.W's accumulator: exact modulo 2^64 with S = 0 (R194). -/
def macWord (mach macl : Word) (p : Int) (saturate : Bool) : BitVec 64 :=
  if saturate then macWordSaturated mach macl p else BitVec.ofInt 64 ((mach ++ macl).toInt + p)

end Sys2Proof.Machine
end

