-- ==== Sys2Proof/Machine/Memory.lean ====
section
/-! DEFINITION. Memory as a list of (address, byte) pairs in one canonical form: addresses strictly rising and below 2^32,
no byte equal to what an unlisted address reads as (0, log 25), so that equal memories are equal lists. Beside it sets of
addresses as lists (log 23) and the lookup in the memory map (log 27). -/

namespace Sys2Proof.Machine

/-- What an address that memory does not list reads as; DESIGN CHOICE, log 25. -/
def unlistedByte : Byte := 0

/-- The byte at an address. All 32 address bits are decoded: no two addresses reach one byte, though R60 leaves open how many
the part decodes; DESIGN CHOICE, log 46. -/
def Memory.lookup : List Host.Cell → Nat → Byte
  | [], _ => unlistedByte
  | (k, b) :: rest, a => if k = a then b else Memory.lookup rest a

/-- The list without an address. -/
def Memory.erase : List Host.Cell → Nat → List Host.Cell
  | [], _ => []
  | (k, b) :: rest, a => if k = a then Memory.erase rest a else (k, b) :: Memory.erase rest a

/-- The list with a cell put before the first higher address. -/
def Memory.insert : List Host.Cell → Nat → Byte → List Host.Cell
  | [], a, v => [(a, v)]
  | (k, b) :: rest, a, v => if a < k then (a, v) :: (k, b) :: rest else (k, b) :: Memory.insert rest a v

/-- Memory with one byte written. Writing what an unlisted address reads as removes the entry. -/
def Memory.put (cells : List Host.Cell) (a : Nat) (v : Byte) : List Host.Cell :=
  if v = unlistedByte then Memory.erase cells a else Memory.insert (Memory.erase cells a) a v

/-- Memory with several bytes written, in order. -/
def Memory.putAll (cells : List Host.Cell) (ws : List (Word × Byte)) : List Host.Cell :=
  ws.foldl (fun m w => Memory.put m w.1.toNat w.2) cells

/-- The canonical form. -/
abbrev Memory.wf (cells : List Host.Cell) : Prop :=
  cells.Pairwise (fun x y => x.1 < y.1) ∧ ∀ c ∈ cells, c.1 < 2 ^ 32 ∧ c.2 ≠ unlistedByte

/-- A strictly rising list of addresses with one more address. -/
def AddressSet.insert : List Nat → Nat → List Nat
  | [], a => [a]
  | k :: rest, a => if a < k then a :: k :: rest else if a = k then k :: rest else k :: AddressSet.insert rest a

/-- With several more. -/
def AddressSet.insertAll (l : List Nat) (as : List Word) : List Nat :=
  as.foldl (fun l a => AddressSet.insert l a.toNat) l

/-- The canonical form of such a list. -/
abbrev AddressSet.wf (l : List Nat) : Prop := l.Pairwise (· < ·) ∧ ∀ a ∈ l, a < 2 ^ 32

/-- What lies at an address: the first region that holds it, else RAM (log 27). -/
def regionAt : List Region → Nat → RegionKind
  | [], _ => .ram
  | r :: rest, a => if r.base ≤ a ∧ a < r.base + r.size then r.kind else regionAt rest a

end Sys2Proof.Machine
end

