-- ==== Sys2Proof/Machine/Ops.lean ====
section
/-! DEFINITION. The named operations every meaning is written over: general registers, the access primitives MemRead and
MemWrite (R66, R67), the end of an instruction (R34, R251), taking an exception (R330) and returning from one (R295), the
guards of R253, R254 and R384, and fetching an instruction (R68). -/

namespace Sys2Proof.Machine

/-! ### General registers (R21) -/

/-- Read a general register. -/
def State.reg (s : State) (r : Reg) : Word := s.regs[r]

/-- Write a general register; all sixteen are ordinary (R21). -/
def State.setReg (s : State) (r : Reg) (v : Word) : State := { s with regs := s.regs.set r.val v r.isLt }

/-! ### Bytes of memory -/

/-- What lies at an address (R60, R82). -/
def State.kindAt (s : State) (a : Word) : RegionKind := regionAt s.map a.toNat

/-- The byte that access number `k` of an instruction reads at an address: memory's, or whatever a peripheral register
returns (R66; log 28). Every bit of the address counts (DESIGN CHOICE, log 46). -/
def State.byteAt (s : State) (k : Nat) (a : Word) : Byte :=
  if s.kindAt a = .device then Config.deviceByte s.tick k a.toNat else Memory.lookup s.mem a.toNat

/-- Store one byte: memory takes it, or the device at that address does (log 28). Either way it may no longer be fetched
(R78; log 23). Every bit of the address counts (DESIGN CHOICE, log 46). -/
def State.storeByte (s : State) (a : Word) (v : Byte) : State :=
  { s with
    mem := if s.kindAt a = .device then s.mem else Memory.put s.mem a.toNat v
    storedAt := AddressSet.insert s.storedAt a.toNat }

/-! ### Other bus masters (R75, R77, R353) -/

/-- Of the addresses another master writes, those this run has fetched from: text is immutable while it runs, so they may no
longer be fetched. The others it may load (R78; log 23). -/
def State.overwritten (s : State) (ws : List (Word × Byte)) : List Word :=
  (ws.map Prod.fst).filter fun a => s.fetchedAt.contains a.toNat

/-- Another bus master's writes: memory changes, no CPU register does (R77; log 36). -/
def State.busWrites (s : State) (ws : List (Word × Byte)) : State :=
  { s with mem := Memory.putAll s.mem ws, storedAt := AddressSet.insertAll s.storedAt (s.overwritten ws) }

/-- The state in which the CPU's next data access is made: other masters may write before any of them (R75, R353, D14;
log 36). -/
def State.arbitrate (s : State) : State :=
  { s.busWrites (s.between.headD []) with between := s.between.tail }

/-! ### The access primitives (R61, R64, R66, R67) -/

/-- The three access sizes (R61). -/
inductive Size where
  | byte
  | word
  | long
deriving DecidableEq, Repr

/-- The number of bytes, which is also the scale of a displacement (R105, R124) and the step of `@Rn+` and `@-Rn` (R122,
R123). -/
def Size.bytes : Size → Word
  | .byte => 1
  | .word => 2
  | .long => 4

/-- The addresses an access touches, lowest first. -/
def span : Size → Word → List Word
  | .byte, a => [a]
  | .word, a => [a, a + 1]
  | .long, a => [a, a + 1, a + 2, a + 3]

/-- The alignment of R64: bytes anywhere, words at 2n, longwords at 4n. -/
def aligned : Size → Word → Bool
  | .byte, _ => true
  | .word, a => a.toNat % 2 == 0
  | .long, a => a.toNat % 4 == 0

/-- Something lies at every address of the access (R82). -/
def State.mapped (s : State) (sz : Size) (a : Word) : Bool := (span sz a).all fun b => s.kindAt b != .absent

/-- No address of the access is ROM (R82). -/
def State.writable (s : State) (sz : Size) (a : Word) : Bool := (span sz a).all fun b => s.kindAt b != .rom

/-- What an access gives: a value, the address error of R323, or the model's fault for R82. -/
inductive Access (α : Type) where
  | ok (v : α)
  | addressError
  | fault (r : Fault)
deriving Repr

/-- The big-endian value of the bytes at an address (R62, R66), zero-extended to a longword. -/
def State.readValue (s : State) (k : Nat) (sz : Size) (a : Word) : Word :=
  match sz with
  | .byte => (s.byteAt k a).setWidth 32
  | .word => (s.byteAt k a ++ s.byteAt k (a + 1)).setWidth 32
  | .long => s.byteAt k a ++ s.byteAt k (a + 1) ++ s.byteAt k (a + 2) ++ s.byteAt k (a + 3)

/-- `MemRead` (R66). `k` numbers the data accesses of one instruction. A device window is read in any width: R323's
address error for the wrong one depends on the map the spec does not have, and is never raised (DESIGN CHOICE, log 45). -/
def memRead (s : State) (k : Nat) (sz : Size) (a : Word) : Access Word :=
  if aligned sz a then
    if s.mapped sz a then .ok (s.readValue k sz a) else .fault .absentAddress
  else .addressError

/-- The bytes of a datum with their addresses, most significant byte lowest (R62, R67); bits above the size are
ignored. -/
def bytesOf (sz : Size) (a v : Word) : List (Word × Byte) :=
  match sz with
  | .byte => [(a, v.extractLsb' 0 8)]
  | .word => [(a, v.extractLsb' 8 8), (a + 1, v.extractLsb' 0 8)]
  | .long =>
    [(a, v.extractLsb' 24 8), (a + 1, v.extractLsb' 16 8), (a + 2, v.extractLsb' 8 8), (a + 3, v.extractLsb' 0 8)]

/-- Store bytes in order. -/
def State.storeBytes (s : State) (bs : List (Word × Byte)) : State :=
  bs.foldl (fun t b => t.storeByte b.1 b.2) s

/-- `MemWrite` (R67). A device window is written in any width (DESIGN CHOICE, log 45). -/
def memWrite (s : State) (sz : Size) (a v : Word) : Access State :=
  if aligned sz a then
    if s.mapped sz a then
      if s.writable sz a then .ok (s.storeBytes (bytesOf sz a v)) else .fault .romStore
    else .fault .absentAddress
  else .addressError

/-! ### The end of an instruction (R34, R251) -/

/-- Where control goes after an instruction that does not set PC itself: the target of the delayed branch whose slot
this is, else the next word, modulo 2^32 (R34, R36). -/
def State.nextPc (s : State) : Word := s.delay.getD (s.pc + 2)

/-- End an instruction that does not set PC itself. -/
def State.advance (s : State) : State := { s with pc := s.nextPc, delay := none }

/-- End a delayed branch: its slot comes next, then the target (R251). -/
def State.branchDelayed (s : State) (target : Word) : State := { s with pc := s.pc + 2, delay := some target }

/-! ### Taking an exception (R330) -/

/-- The access number of the vector fetch among an instruction's reads. -/
def vectorAccess : Nat := 2

/-- `ExceptionEntry` (R330): SR and then the saved PC are pushed, SR.I takes the new level if there is one, `delay` is
cleared, `mode` is run, PC is the longword at VBR + 4v. Any failing access in it is terminal (R339). Frame: log 10; other
masters may write before each of the three accesses (log 36). -/
def exceptionEntry (s : State) (v : BitVec 8) (savedPc : Word) (level : Option (BitVec 4)) : Result :=
  match memWrite s.arbitrate .long (s.reg 15 - 4) s.srValue with
  | .ok s1 =>
    match memWrite s1.arbitrate .long (s.reg 15 - 8) savedPc with
    | .ok s2 =>
      match memRead s2.arbitrate vectorAccess .long (s.vbr + v.setWidth 32 * 4) with
      | .ok target =>
        .next { s2.arbitrate.setReg 15 (s.reg 15 - 8) with
                  sr := level.elim s.sr (srWithMask s.sr), delay := none, mode := .run, pc := target }
      | _ => .fault .exceptionEntry
    | _ => .fault .exceptionEntry
  | _ => .fault .exceptionEntry

/-- The CPU address error of a data access (R323 b, c): vector 9, and the saved PC is the address of the instruction that
would have come next (R331; log 11). `s` is what the faulting instruction leaves. -/
def addressErrorEntry (s : State) : Result := exceptionEntry s vecAddressError s.nextPc none

/-- An undefined word (R109): general illegal instruction with the word's own address saved (R321), or in a delay slot
slot illegal instruction with the pending target saved (R322). -/
def illegalInstruction (s : State) : Result :=
  match s.delay with
  | none => exceptionEntry s vecGeneralIllegal s.pc none
  | some target => exceptionEntry s vecSlotIllegal target none

/-! ### Guards -/

/-- An instruction of R253's list is not executed in a delay slot: slot illegal instruction (R253, R322). -/
def notInSlot (s : State) (r : Result) : Result :=
  match s.delay with
  | none => r
  | some target => exceptionEntry s vecSlotIllegal target none

/-- A PC-relative operand has no meaning in a delay slot (R254, U4; log 20). -/
def pcOperandGuard (s : State) (r : Result) : Result :=
  match s.delay with
  | none => r
  | some _ => .refused .pcRelativeInDelaySlot

/-- The multiplier and MACH and MACL may not be used while MULT is in module standby (R384, U8; log 33). -/
def multiplierGuard (s : State) (r : Result) : Result :=
  if s.platform.stopMult then .refused .multiplierInModuleStandby else r

/-- What a multiplication instruction leaves in flight (R38 a). It is set when the instruction completes: that a MAC whose
operand is misaligned counts as none is a DESIGN CHOICE (log 34). -/
def State.multiplied (s : State) : State := { s with multSinceMach := true, multSinceMacl := true }

/-! ### Instructions with a data access -/

/-- Read, then go on from the state the access was made in, with the value. A misaligned read takes the address error
from `err`, the state the instruction then leaves (R65; log 5); no access is made. -/
def readThen (s : State) (k : Nat) (sz : Size) (a : Word) (err : State) (f : State → Word → Result) : Result :=
  match memRead s.arbitrate k sz a with
  | .ok v => f s.arbitrate v
  | .addressError => addressErrorEntry err
  | .fault r => .fault r

/-- Write with the bus held, so that no other master comes before the access; then go on from the state after it. A
misaligned write stores nothing (D5). -/
def writeHeld (s : State) (sz : Size) (a v : Word) (err : State) (f : State → Result) : Result :=
  match memWrite s sz a v with
  | .ok t => f t
  | .addressError => addressErrorEntry err
  | .fault r => .fault r

/-- Write, then go on from the state after it. -/
def writeThen (s : State) (sz : Size) (a v : Word) (err : State) (f : State → Result) : Result :=
  writeHeld s.arbitrate sz a v err f

/-- A base register after a misaligned access: the old value or the updated one, left open (U2; log 5). -/
def State.baseAfterError (s : State) (k : Nat) (r : Reg) (updated : Word) : State :=
  if Config.baseUpdated s.tick k then s.setReg r updated else s

/-! ### Return from exception processing (R295) -/

/-- RTE's two pops: PC from `@R15`, SR from above it, R15 eight higher; the delayed branch to the popped PC is armed and
the slot runs under the popped SR (log 41). -/
def returnFromException (s : State) : Result :=
  let err (t : State) := t.baseAfterError 0 15 (s.reg 15 + 8)
  readThen s 0 .long (s.reg 15) (err s) fun t savedPc =>
    readThen t 1 .long (s.reg 15 + 4) (err t) fun t savedSr =>
      .next (((t.setReg 15 (s.reg 15 + 8)).setSr savedSr).branchDelayed savedPc)

/-! ### Instruction fetch (R68) -/

/-- What a fetch gives. -/
inductive Fetched where
  | word (w : Half)
  | addressError
  | fault (r : Fault)
  | refused (r : Refusal)
deriving Repr

/-- The access number of the fetch among a step's reads. -/
def fetchAccess : Nat := 3

/-- The 16-bit word a fetch reads at an address, high byte first (R62, R68): memory's bytes, or what a peripheral returns
(R66; log 28, log 29). -/
def State.codeAt (s : State) (a : Word) : Half := s.byteAt fetchAccess a ++ s.byteAt fetchAccess (a + 1)

/-- One of the two bytes of a fetch may no longer be fetched. -/
def State.selfModified (s : State) (a : Word) : Bool := (span .word a).any fun b => s.storedAt.contains b.toNat

/-- Fetch the word at `pc` (R68): an odd address is an address error (R323 a), an absent one a fault (R82), a byte this run
stored, or that changed under it, is refused (R78; log 23). -/
def fetch (s : State) : Fetched :=
  if aligned .word s.pc then
    if s.mapped .word s.pc then
      if s.selfModified s.pc then .refused .selfModifiedCode
      else .word (s.codeAt s.pc)
    else .fault .absentAddress
  else .addressError

/-- The state after a fetch at `pc`: the two bytes are text of this run (R78; log 23). -/
def State.markFetched (s : State) : State := { s with fetchedAt := AddressSet.insertAll s.fetchedAt (span .word s.pc) }

/-- The word after a branch is one of R253's list (R256): the word that the next step's fetch would give as things stand
(log 21). -/
def State.branchFollows (s : State) : Bool :=
  let a := s.pc + 2
  if s.mapped .word a then
    match decode (({ s with tick := s.tick + 1 } : State).codeAt a) with
    | .ok i => i.isBranchClass
    | .error _ => false
  else false

end Sys2Proof.Machine
end

