-- ==== Sys2Proof/Machine/Operands.lean ====
section
/-! DEFINITION. The addressing modes (R120 to R128) and branch targets (R250), each as the address it computes. Sums are
modulo 2^32 (R81). -/

namespace Sys2Proof.Machine

/-- "PC" in an operand: the address of the executing instruction plus 4 (R35; log 1). -/
def State.pcValue (s : State) : Word := s.pc + pcOffset

/-- `@Rn` (R121), and the address `@Rn+` accesses (R122). -/
def eaReg (s : State) (r : Reg) : Word := s.reg r

/-- What `@Rn+` leaves in the register (R122). -/
def incremented (s : State) (sz : Size) (r : Reg) : Word := s.reg r + sz.bytes

/-- The address `@-Rn` accesses and leaves in the register (R123). -/
def eaPreDec (s : State) (sz : Size) (r : Reg) : Word := s.reg r - sz.bytes

/-- `@(disp:4,Rn)`: the displacement zero-extended and scaled (R124). -/
def eaDisp (s : State) (sz : Size) (d : BitVec 4) (r : Reg) : Word := s.reg r + d.setWidth 32 * sz.bytes

/-- `@(R0,Rn)` (R125). -/
def eaIndexed (s : State) (r : Reg) : Word := s.reg 0 + s.reg r

/-- `@(disp:8,GBR)` (R126). -/
def eaGbrDisp (s : State) (sz : Size) (d : BitVec 8) : Word := s.gbr + d.setWidth 32 * sz.bytes

/-- `@(R0,GBR)` (R127). -/
def eaGbrIndexed (s : State) : Word := s.gbr + s.reg 0

/-- `@(disp:8,PC)` of a word operation (R128). -/
def eaPcWord (s : State) (d : BitVec 8) : Word := s.pcValue + d.setWidth 32 * 2

/-- `@(disp:8,PC)` of a longword operation: the lowest two bits of PC are masked (R128). -/
def eaPcLong (s : State) (d : BitVec 8) : Word := (s.pcValue &&& 0xFFFFFFFC) + d.setWidth 32 * 4

/-- `target8` (R250): BF, BF/S, BT, BT/S. -/
def target8 (s : State) (d : BitVec 8) : Word := s.pcValue + (d.signExtend 32 <<< 1)

/-- `target12` (R250): BRA, BSR. -/
def target12 (s : State) (d : BitVec 12) : Word := s.pcValue + (d.signExtend 32 <<< 1)

/-- `targetR` (R250): BRAF, BSRF. -/
def targetReg (s : State) (r : Reg) : Word := s.pcValue + s.reg r

/-- A sign-extended 8-bit immediate: MOV, ADD, CMP/EQ (R104). -/
def immSigned (imm : BitVec 8) : Word := imm.signExtend 32

/-- A zero-extended 8-bit immediate: TST, AND, OR, XOR (R104). -/
def immUnsigned (imm : BitVec 8) : Word := imm.setWidth 32

end Sys2Proof.Machine
end

