-- ==== Sys2Proof/Machine/Arithmetic.lean ====
section
/-! DEFINITION. The arithmetic instructions (R170 to R203; 41_arithmetic.md). None traps; carry, borrow and overflow go to T
(R203). -/

namespace Sys2Proof.Machine

/-- Rn takes a value, T does not change. -/
def putReg (s : State) (n : Reg) (v : Word) : Result := .next ((s.setReg n v).advance)

/-- Rn takes a value and T a flag. -/
def putRegT (s : State) (n : Reg) (v : Word) (flag : Bool) : Result := .next (((s.setReg n v).setT flag).advance)

/-- Only T is written (R174 to R182). -/
def putT (s : State) (flag : Bool) : Result := .next ((s.setT flag).advance)

/-! ### Addition -/

/-- `ADD Rm,Rn`, R170. -/
def execAddR (m n : Reg) (s : State) : Result := putReg s n (s.reg n + s.reg m)

/-- `ADD #imm,Rn`, R171. -/
def execAddImm (imm : BitVec 8) (n : Reg) (s : State) : Result := putReg s n (s.reg n + immSigned imm)

/-- `ADDC Rm,Rn`, R172. -/
def execAddc (m n : Reg) (s : State) : Result :=
  putRegT s n (s.reg n + s.reg m + flagWord s.t) (carryOut (s.reg n) (s.reg m) s.t)

/-- `ADDV Rm,Rn`, R173. -/
def execAddv (m n : Reg) (s : State) : Result :=
  putRegT s n (s.reg n + s.reg m) (addOverflow (s.reg n) (s.reg m))

/-! ### Comparison -/

/-- `CMP/EQ #imm,R0`, R174. -/
def execCmpEqImm (imm : BitVec 8) (s : State) : Result := putT s (s.reg 0 == immSigned imm)

/-- `CMP/EQ Rm,Rn`, R175. -/
def execCmpEq (m n : Reg) (s : State) : Result := putT s (s.reg n == s.reg m)

/-- `CMP/HS Rm,Rn`, unsigned `>=`, R176. -/
def execCmpHs (m n : Reg) (s : State) : Result := putT s ((s.reg m).ule (s.reg n))

/-- `CMP/GE Rm,Rn`, signed `>=`, R177. -/
def execCmpGe (m n : Reg) (s : State) : Result := putT s ((s.reg m).sle (s.reg n))

/-- `CMP/HI Rm,Rn`, unsigned `>`, R178. -/
def execCmpHi (m n : Reg) (s : State) : Result := putT s ((s.reg m).ult (s.reg n))

/-- `CMP/GT Rm,Rn`, signed `>`, R179. -/
def execCmpGt (m n : Reg) (s : State) : Result := putT s ((s.reg m).slt (s.reg n))

/-- `CMP/PZ Rn`, R180. -/
def execCmpPz (n : Reg) (s : State) : Result := putT s (!(s.reg n).msb)

/-- `CMP/PL Rn`, R181. -/
def execCmpPl (n : Reg) (s : State) : Result := putT s ((0 : Word).slt (s.reg n))

/-- `CMP/STR Rm,Rn`, R182. -/
def execCmpStr (m n : Reg) (s : State) : Result := putT s (someByteEqual (s.reg n) (s.reg m))

/-! ### Division steps -/

/-- `DIV1 Rm,Rn`, R183. SR.M is not changed. -/
def execDiv1 (m n : Reg) (s : State) : Result :=
  let r := div1Step (s.reg n) (s.reg m) (m == n) s.q s.m s.t
  .next ((((s.setReg n r.rem).setQ r.q).setT r.t).advance)

/-- `DIV0S Rm,Rn`, R184. -/
def execDiv0s (m n : Reg) (s : State) : Result :=
  .next ((((s.setQ (s.reg n).msb).setM (s.reg m).msb).setT ((s.reg m).msb ^^ (s.reg n).msb)).advance)

/-- `DIV0U`, R185. -/
def execDiv0u (s : State) : Result := .next ((((s.setM false).setQ false).setT false).advance)

/-! ### Multiplication -/

/-- `DMULS.L Rm,Rn`, R186. -/
def execDmulsL (m n : Reg) (s : State) : Result :=
  multiplierGuard s (.next ((s.setMac (signedProduct (s.reg n) (s.reg m))).multiplied.advance))

/-- `DMULU.L Rm,Rn`, R187. -/
def execDmuluL (m n : Reg) (s : State) : Result :=
  multiplierGuard s (.next ((s.setMac (unsignedProduct (s.reg n) (s.reg m))).multiplied.advance))

/-- A 32-bit product into MACL; MACH keeps its value (R195 to R197, D17; log 15). -/
def putMacl (s : State) (v : Word) : Result := .next (({ s with macl := v } : State).multiplied.advance)

/-- `MUL.L Rm,Rn`, R195. -/
def execMulL (m n : Reg) (s : State) : Result := multiplierGuard s (putMacl s (s.reg n * s.reg m))

/-- `MULS.W Rm,Rn`, R196. -/
def execMulsW (m n : Reg) (s : State) : Result :=
  multiplierGuard s (putMacl s (sextWord (s.reg n) * sextWord (s.reg m)))

/-- `MULU.W Rm,Rn`, R197. -/
def execMuluW (m n : Reg) (s : State) : Result :=
  multiplierGuard s (putMacl s (zextWord (s.reg n) * zextWord (s.reg m)))

/-- The operands of MAC: `@Rn` is read first and each register is incremented right after its read, so one register
twice gives consecutive data (R193, R194, D20; log 18). `f` is given the state with both registers advanced and the
data of `@Rn` and of `@Rm`. A misaligned operand is an address error, and then no multiplication counts as executed: the
note of R38 (a) stays (DESIGN CHOICE, log 34). -/
def macOperands (s : State) (sz : Size) (m n : Reg) (f : State → Word → Word → Result) : Result :=
  let err (t : State) :=
    let u := t.baseAfterError 0 n (incremented t sz n)
    u.baseAfterError 1 m (incremented u sz m)
  readThen s 0 sz (eaReg s n) (err s) fun t a =>
    let s1 := t.setReg n (incremented t sz n)
    readThen s1 1 sz (eaReg s1 m) (err t) fun u b =>
      f (u.setReg m (incremented u sz m)) a b

/-- `MAC.L @Rm+,@Rn+`, R193. -/
def execMacL (m n : Reg) (s : State) : Result :=
  multiplierGuard s (macOperands s .long m n fun t a b =>
    .next ((t.setMac (macLong t.mac (a.toInt * b.toInt) t.sBit)).multiplied.advance))

/-- `MAC.W @Rm+,@Rn+`, R194. -/
def execMacW (m n : Reg) (s : State) : Result :=
  multiplierGuard s (macOperands s .word m n fun t a b =>
    .next ((t.setMac (macWord t.mach t.macl ((sextWord a).toInt * (sextWord b).toInt) t.sBit)).multiplied.advance))

/-! ### DT and extensions -/

/-- `DT Rn`, R188. -/
def execDt (n : Reg) (s : State) : Result := putRegT s n (s.reg n - 1) (s.reg n - 1 == 0)

/-- `EXTS.B Rm,Rn`, R189. -/
def execExtsB (m n : Reg) (s : State) : Result := putReg s n (sextByte (s.reg m))

/-- `EXTS.W Rm,Rn`, R190. -/
def execExtsW (m n : Reg) (s : State) : Result := putReg s n (sextWord (s.reg m))

/-- `EXTU.B Rm,Rn`, R191. -/
def execExtuB (m n : Reg) (s : State) : Result := putReg s n (zextByte (s.reg m))

/-- `EXTU.W Rm,Rn`, R192. -/
def execExtuW (m n : Reg) (s : State) : Result := putReg s n (zextWord (s.reg m))

/-! ### Negation and subtraction -/

/-- `NEG Rm,Rn`, R198. -/
def execNeg (m n : Reg) (s : State) : Result := putReg s n (0 - s.reg m)

/-- `NEGC Rm,Rn`, R199. -/
def execNegc (m n : Reg) (s : State) : Result :=
  putRegT s n (0 - s.reg m - flagWord s.t) (borrowOut 0 (s.reg m) s.t)

/-- `SUB Rm,Rn`, R200. -/
def execSubR (m n : Reg) (s : State) : Result := putReg s n (s.reg n - s.reg m)

/-- `SUBC Rm,Rn`, R201. -/
def execSubc (m n : Reg) (s : State) : Result :=
  putRegT s n (s.reg n - s.reg m - flagWord s.t) (borrowOut (s.reg n) (s.reg m) s.t)

/-- `SUBV Rm,Rn`, R202. -/
def execSubv (m n : Reg) (s : State) : Result :=
  putRegT s n (s.reg n - s.reg m) (subOverflow (s.reg n) (s.reg m))

end Sys2Proof.Machine
end

