-- ==== Sys2Proof/Machine/Branch.lean ====
section
/-! DEFINITION. The branch instructions (R250 to R270; 44_branch.md). In a delay slot each of them is a slot illegal
instruction (R253); a delayed branch reads all it needs and writes PR before its slot executes (R255, D21; log 19). -/

namespace Sys2Proof.Machine

/-- A branch that is not delayed: taken, control is at the target at once (R251). -/
def branchAtOnce (s : State) (taken : Bool) (target : Word) : Result :=
  .next { s with pc := if taken then target else s.pc + 2 }

/-- A conditional delayed branch (R251, R252). Not taken, it is a no-operation, unless a branch-class word follows, which
has no meaning (R256, U5; log 21). -/
def branchConditionalDelayed (s : State) (taken : Bool) (target : Word) : Result :=
  if taken then .next (s.branchDelayed target)
  else if s.branchFollows then .refused .branchAfterUntakenDelayedBranch
  else .next { s with pc := s.pc + 2 }

/-- PR takes the address after the delay slot (R259). -/
def State.link (s : State) : State := { s with pr := s.pcValue }

/-- `BF label`, R260. -/
def execBf (d : BitVec 8) (s : State) : Result := notInSlot s (branchAtOnce s (!s.t) (target8 s d))

/-- `BF/S label`, R261. -/
def execBfS (d : BitVec 8) (s : State) : Result := notInSlot s (branchConditionalDelayed s (!s.t) (target8 s d))

/-- `BT label`, R262. -/
def execBt (d : BitVec 8) (s : State) : Result := notInSlot s (branchAtOnce s s.t (target8 s d))

/-- `BT/S label`, R263. -/
def execBtS (d : BitVec 8) (s : State) : Result := notInSlot s (branchConditionalDelayed s s.t (target8 s d))

/-- `BRA label`, R264. -/
def execBra (d : BitVec 12) (s : State) : Result := notInSlot s (.next (s.branchDelayed (target12 s d)))

/-- `BRAF Rm`, R265. -/
def execBraf (m : Reg) (s : State) : Result := notInSlot s (.next (s.branchDelayed (targetReg s m)))

/-- `BSR label`, R266. -/
def execBsr (d : BitVec 12) (s : State) : Result := notInSlot s (.next (s.link.branchDelayed (target12 s d)))

/-- `BSRF Rm`, R267. -/
def execBsrf (m : Reg) (s : State) : Result := notInSlot s (.next (s.link.branchDelayed (targetReg s m)))

/-- `JMP @Rm`: no memory is read (R268). -/
def execJmp (m : Reg) (s : State) : Result := notInSlot s (.next (s.branchDelayed (s.reg m)))

/-- `JSR @Rm`, R269. -/
def execJsr (m : Reg) (s : State) : Result := notInSlot s (.next (s.link.branchDelayed (s.reg m)))

/-- `RTS`, R270. -/
def execRts (s : State) : Result := notInSlot s (.next (s.branchDelayed s.pr))

end Sys2Proof.Machine
end

