-- ==== Sys2Proof/Machine/DataTransfer.lean ====
section
/-! DEFINITION. The data transfer instructions (R130 to R168; 40_data_transfer.md). A load leaves the register an addressing
mode updates before it writes its destination (R143); a store reads its source before the address is computed (R140). -/

namespace Sys2Proof.Machine

/-- The extension a load of a size applies (R42). -/
def loadExtend : Size → Word → Word
  | .byte, v => sextByte v
  | .word, v => sextWord v
  | .long, v => v

/-- A load of `Rn` from `a` that changes nothing else (R42, R137 to R139). -/
def loadInto (s : State) (sz : Size) (a : Word) (n : Reg) : Result :=
  readThen s 0 sz a s fun t v => .next ((t.setReg n (loadExtend sz v)).advance)

/-- A load of `Rn` from `@Rm+`: the increment, then the datum, so that the datum stays when both are one register (R143,
D20; log 18). -/
def loadIncInto (s : State) (sz : Size) (m n : Reg) : Result :=
  readThen s 0 sz (eaReg s m) (s.baseAfterError 0 m (incremented s sz m)) fun t v =>
    .next (((t.setReg m (incremented s sz m)).setReg n (loadExtend sz v)).advance)

/-- A store of `v` at `a` that changes no register (R134 to R136). -/
def storeFrom (s : State) (sz : Size) (a v : Word) : Result :=
  writeThen s sz a v s fun t => .next t.advance

/-- A store of `v` at `@-Rn`, which keeps the decremented address (R123, R140). -/
def storeDecFrom (s : State) (sz : Size) (n : Reg) (v : Word) : Result :=
  writeThen s sz (eaPreDec s sz n) v (s.baseAfterError 0 n (eaPreDec s sz n)) fun t =>
    .next ((t.setReg n (eaPreDec s sz n)).advance)

/-! ### Immediate and PC-relative -/

/-- `MOV #imm,Rn`, R130. -/
def execMovImm (imm : BitVec 8) (n : Reg) (s : State) : Result := .next ((s.setReg n (immSigned imm)).advance)

/-- `MOV.W @(disp,PC),Rn`, R131. -/
def execMovWPc (d : BitVec 8) (n : Reg) (s : State) : Result :=
  pcOperandGuard s (loadInto s .word (eaPcWord s d) n)

/-- `MOV.L @(disp,PC),Rn`, R132. -/
def execMovLPc (d : BitVec 8) (n : Reg) (s : State) : Result :=
  pcOperandGuard s (loadInto s .long (eaPcLong s d) n)

/-! ### Register and register-indirect -/

/-- `MOV Rm,Rn`, R133. -/
def execMov (m n : Reg) (s : State) : Result := .next ((s.setReg n (s.reg m)).advance)

/-- `MOV.B Rm,@Rn`, R134. -/
def execMovBStore (m n : Reg) (s : State) : Result := storeFrom s .byte (eaReg s n) (s.reg m)

/-- `MOV.W Rm,@Rn`, R135. -/
def execMovWStore (m n : Reg) (s : State) : Result := storeFrom s .word (eaReg s n) (s.reg m)

/-- `MOV.L Rm,@Rn`, R136. -/
def execMovLStore (m n : Reg) (s : State) : Result := storeFrom s .long (eaReg s n) (s.reg m)

/-- `MOV.B @Rm,Rn`, R137. -/
def execMovBLoad (m n : Reg) (s : State) : Result := loadInto s .byte (eaReg s m) n

/-- `MOV.W @Rm,Rn`, R138. -/
def execMovWLoad (m n : Reg) (s : State) : Result := loadInto s .word (eaReg s m) n

/-- `MOV.L @Rm,Rn`, R139. -/
def execMovLLoad (m n : Reg) (s : State) : Result := loadInto s .long (eaReg s m) n

/-! ### Pre-decrement and post-increment -/

/-- `MOV.B Rm,@-Rn`, R140. -/
def execMovBStoreDec (m n : Reg) (s : State) : Result := storeDecFrom s .byte n (s.reg m)

/-- `MOV.W Rm,@-Rn`, R141. -/
def execMovWStoreDec (m n : Reg) (s : State) : Result := storeDecFrom s .word n (s.reg m)

/-- `MOV.L Rm,@-Rn`, R142. -/
def execMovLStoreDec (m n : Reg) (s : State) : Result := storeDecFrom s .long n (s.reg m)

/-- `MOV.B @Rm+,Rn`, R143. -/
def execMovBLoadInc (m n : Reg) (s : State) : Result := loadIncInto s .byte m n

/-- `MOV.W @Rm+,Rn`, R144. -/
def execMovWLoadInc (m n : Reg) (s : State) : Result := loadIncInto s .word m n

/-- `MOV.L @Rm+,Rn`, R145. -/
def execMovLLoadInc (m n : Reg) (s : State) : Result := loadIncInto s .long m n

/-! ### Register indirect with displacement -/

/-- `MOV.B R0,@(disp,Rn)`, R146. -/
def execMovBStoreDisp (d : BitVec 4) (n : Reg) (s : State) : Result := storeFrom s .byte (eaDisp s .byte d n) (s.reg 0)

/-- `MOV.W R0,@(disp,Rn)`, R147. -/
def execMovWStoreDisp (d : BitVec 4) (n : Reg) (s : State) : Result := storeFrom s .word (eaDisp s .word d n) (s.reg 0)

/-- `MOV.L Rm,@(disp,Rn)`, R148. -/
def execMovLStoreDisp (m : Reg) (d : BitVec 4) (n : Reg) (s : State) : Result :=
  storeFrom s .long (eaDisp s .long d n) (s.reg m)

/-- `MOV.B @(disp,Rm),R0`, R149. -/
def execMovBLoadDisp (d : BitVec 4) (m : Reg) (s : State) : Result := loadInto s .byte (eaDisp s .byte d m) 0

/-- `MOV.W @(disp,Rm),R0`, R150. -/
def execMovWLoadDisp (d : BitVec 4) (m : Reg) (s : State) : Result := loadInto s .word (eaDisp s .word d m) 0

/-- `MOV.L @(disp,Rm),Rn`, R151. -/
def execMovLLoadDisp (d : BitVec 4) (m n : Reg) (s : State) : Result := loadInto s .long (eaDisp s .long d m) n

/-! ### Indexed -/

/-- `MOV.B Rm,@(R0,Rn)`, R152. -/
def execMovBStoreIdx (m n : Reg) (s : State) : Result := storeFrom s .byte (eaIndexed s n) (s.reg m)

/-- `MOV.W Rm,@(R0,Rn)`, R153. -/
def execMovWStoreIdx (m n : Reg) (s : State) : Result := storeFrom s .word (eaIndexed s n) (s.reg m)

/-- `MOV.L Rm,@(R0,Rn)`, R154. -/
def execMovLStoreIdx (m n : Reg) (s : State) : Result := storeFrom s .long (eaIndexed s n) (s.reg m)

/-- `MOV.B @(R0,Rm),Rn`, R155. -/
def execMovBLoadIdx (m n : Reg) (s : State) : Result := loadInto s .byte (eaIndexed s m) n

/-- `MOV.W @(R0,Rm),Rn`, R156. -/
def execMovWLoadIdx (m n : Reg) (s : State) : Result := loadInto s .word (eaIndexed s m) n

/-- `MOV.L @(R0,Rm),Rn`, R157. -/
def execMovLLoadIdx (m n : Reg) (s : State) : Result := loadInto s .long (eaIndexed s m) n

/-! ### GBR-relative -/

/-- `MOV.B R0,@(disp,GBR)`, R158. -/
def execMovBStoreGbr (d : BitVec 8) (s : State) : Result := storeFrom s .byte (eaGbrDisp s .byte d) (s.reg 0)

/-- `MOV.W R0,@(disp,GBR)`, R159. -/
def execMovWStoreGbr (d : BitVec 8) (s : State) : Result := storeFrom s .word (eaGbrDisp s .word d) (s.reg 0)

/-- `MOV.L R0,@(disp,GBR)`, R160. -/
def execMovLStoreGbr (d : BitVec 8) (s : State) : Result := storeFrom s .long (eaGbrDisp s .long d) (s.reg 0)

/-- `MOV.B @(disp,GBR),R0`, R161. -/
def execMovBLoadGbr (d : BitVec 8) (s : State) : Result := loadInto s .byte (eaGbrDisp s .byte d) 0

/-- `MOV.W @(disp,GBR),R0`, R162. -/
def execMovWLoadGbr (d : BitVec 8) (s : State) : Result := loadInto s .word (eaGbrDisp s .word d) 0

/-- `MOV.L @(disp,GBR),R0`, R163. -/
def execMovLLoadGbr (d : BitVec 8) (s : State) : Result := loadInto s .long (eaGbrDisp s .long d) 0

/-! ### MOVA, MOVT, SWAP, XTRCT -/

/-- `MOVA @(disp,PC),R0`, R164. -/
def execMova (d : BitVec 8) (s : State) : Result :=
  pcOperandGuard s (.next ((s.setReg 0 (eaPcLong s d)).advance))

/-- `MOVT Rn`, R165. -/
def execMovt (n : Reg) (s : State) : Result := .next ((s.setReg n (flagWord s.t)).advance)

/-- `SWAP.B Rm,Rn`: the two low bytes exchanged, the upper word passed on (R166, D39). -/
def execSwapB (m n : Reg) (s : State) : Result :=
  let x := s.reg m
  .next ((s.setReg n (x.extractLsb' 16 16 ++ x.extractLsb' 0 8 ++ x.extractLsb' 8 8)).advance)

/-- `SWAP.W Rm,Rn`, R167. -/
def execSwapW (m n : Reg) (s : State) : Result :=
  let x := s.reg m
  .next ((s.setReg n (x.extractLsb' 0 16 ++ x.extractLsb' 16 16)).advance)

/-- `XTRCT Rm,Rn`: bits 47:16 of Rm : Rn (R168). -/
def execXtrct (m n : Reg) (s : State) : Result :=
  .next ((s.setReg n ((s.reg m ++ s.reg n).extractLsb' 16 32)).advance)

end Sys2Proof.Machine
end

