-- ==== Sys2Proof/Machine/Events.lean ====
section
/-! DEFINITION. What happens at an instruction boundary other than an instruction: reset (R370, R371), interrupt
acceptance and entry (R334 to R337), the DMA address error (R324), sleep and standby (R355 to R358), the bus (R77, R353). -/

namespace Sys2Proof.Machine

/-! ### Reset (R371) -/

/-- The base of the two reset vectors: 0 for power-on, 8 for manual (R371, R326). -/
def resetBase : ResetKind → Word
  | .powerOn => 0
  | .manual => 8

/-- The registers after a reset: R15 from the table, the others undefined, so left open (R40, U1; log 37). -/
def resetRegs (tick : Nat) (sp : Word) : Vector Word 16 :=
  Vector.ofFn fun r : Fin 16 => if r = 15 then sp else Config.undefinedWord tick r.val

/-- SR after a reset: I3-I0 = 1111, reserved bits 0, M, Q, S and T left open (R40; log 37). -/
def resetSr (tick : Nat) : Word := 0x000000F0 ||| (Config.undefinedWord tick 16 &&& 0x00000303)

/-- The reset sequence (R371). Memory, the memory map and the platform are not the CPU's (R372; log 37). What was stored
before is, after a reset, as if loaded, and nothing has been fetched: the run begins here (R78; log 23). -/
def resetSequence (kind : ResetKind) (s : State) : Result :=
  match memRead s.arbitrate 0 .long (resetBase kind), memRead s.arbitrate.arbitrate 1 .long (resetBase kind + 4) with
  | .ok entry, .ok sp =>
    .next { s.arbitrate.arbitrate with
      regs := resetRegs s.tick sp
      sr := resetSr s.tick
      gbr := Config.undefinedWord s.tick 17
      vbr := 0
      mach := Config.undefinedWord s.tick 18
      macl := Config.undefinedWord s.tick 19
      pr := Config.undefinedWord s.tick 20
      pc := entry
      delay := none
      mode := .run
      storedAt := []
      fetchedAt := [] }
  | _, _ => .fault .resetVector

/-! ### Interrupts (R334 to R337) -/

/-- The level of a request; NMI is 16 (R334). -/
def Request.level : Request → Nat
  | .nmi => 16
  | .irq l _ => l.toNat

/-- The vector number of a request (R326, R334). -/
def Request.vectorNumber : Request → BitVec 8
  | .nmi => vecNmi
  | .irq _ v => v

/-- The level entry puts into SR.I: min(level, 15) (R336). -/
def Request.newMask : Request → BitVec 4
  | .nmi => 15
  | .irq l _ => l

/-- The request of highest level, the first of equals (R335). -/
def highest : List Request → Option Request
  | [] => none
  | r :: rest =>
    match highest rest with
    | none => some r
    | some q => if r.level < q.level then some q else some r

/-- Acceptable under an interrupt mask: NMI always, a level when it is above the mask (R335). -/
def acceptable (mask : BitVec 4) (r : Request) : Bool := decide (mask.toNat < r.level)

/-- The request accepted at a boundary, if any: the highest, when the mask lets it through (R335). -/
def acceptedRequest (mask : BitVec 4) (rs : List Request) : Option Request :=
  match highest rs with
  | none => none
  | some r => if acceptable mask r then some r else none

/-- Interrupt entry (R336): SR.I becomes the level after the old SR is pushed; the saved PC is the next instruction's
(R331). -/
def interruptEntry (s : State) (r : Request) : Result := exceptionEntry s r.vectorNumber s.pc (some r.newMask)

/-- DMA address error entry (R324): vector 10, saved PC as for an interrupt, SR.I not changed. -/
def dmaErrorEntry (s : State) : Result := exceptionEntry s vecDmaAddressError s.pc none

/-! ### Power-down (R297, R355, R356) -/

/-- The on-chip RAM addresses of the memory map. -/
def onChipRamAddresses (map : List Region) : List Nat :=
  (map.flatMap fun r => (List.range r.size).map (r.base + ·)).filter fun a =>
    decide (a < 2 ^ 32) && (regionAt map a == .onChipRam)

/-- On-chip RAM bytes become undefined (U9; log 34). -/
def loseOnChipRam (s : State) : State :=
  { s with mem := (onChipRamAddresses s.map).foldl (fun m a => Memory.put m a (Config.standbyByte s.tick a)) s.mem }

/-- MACH and MACL become undefined if a multiplication has executed since they were last written (R38 a, U10; log 34). -/
def loseAccumulator (s : State) : State :=
  if s.multSinceMach || s.multSinceMacl then
    { s with mach := Config.undefinedWord s.tick 0, macl := Config.undefinedWord s.tick 1 }
  else s

/-- Standby mode: registers held but for MACH and MACL, on-chip RAM lost, the DMA master bit initialised (R356; log 34). -/
def enterStandby (s : State) : State :=
  let t := loseOnChipRam (loseAccumulator s)
  { t with mode := .standby, platform := { t.platform with dme := false } }

/-- SLEEP's change of mode, chosen by SBY (R297). -/
def powerDown (s : State) : State := if s.platform.sby then enterStandby s else { s with mode := .sleep }

/-! ### The platform's registers and the bus -/

/-- SBYCR and DMAOR as supplied; stopping the DMAC clears the DMA master enable bit (R357; log 32). -/
def Platform.settled (p : Platform) : Platform := if p.stopDmac then { p with dme := false } else p

/-- The state while the bus is released: the CPU executes nothing; only from `run` does `mode` show it (R37, R353). -/
def State.releaseBus (s : State) (ws : List (Word × Byte)) : State :=
  { s.busWrites ws with mode := if s.mode = .run then .busReleased else s.mode }

/-! ### Boundaries -/

/-- What is presented at this boundary. -/
def State.boundary (s : State) : Input := s.inputs.headD Input.idle

/-- The state in which this step acts: the boundary's input taken, the platform's registers as supplied, the step's
number advanced. -/
def State.begin (s : State) : State :=
  { s with
    inputs := s.inputs.tail
    between := s.boundary.between
    platform := match s.boundary.platform with
      | some p => p.settled
      | none => s.platform
    tick := s.tick + 1 }

/-- A sleeping CPU: a DMA address error or an acceptable interrupt wakes it by its entry (R358), else it stays asleep. -/
def sleepStep (inp : Input) (s : State) : Result :=
  if inp.dmaError then dmaErrorEntry s
  else match acceptedRequest s.imask inp.requests with
    | some r => interruptEntry s r
    | none => .next s

/-- A CPU in standby mode: only NMI wakes it (R358). -/
def standbyStep (inp : Input) (s : State) : Result :=
  if inp.requests.contains .nmi then interruptEntry s .nmi else .next s

end Sys2Proof.Machine
end

