-- ==== Sys2Proof/Machine/Logic.lean ====
section
/-! DEFINITION. The logic instructions (R210 to R224; 42_logic.md). Immediates are zero-extended; the memory forms work on the
byte at GBR + R0; only TST and TAS write T. -/

namespace Sys2Proof.Machine

/-- Rn takes a bitwise result. -/
def putLogic (s : State) (n : Reg) (v : Word) : Result := .next ((s.setReg n v).advance)

/-- T takes "the value is zero" (R218). -/
def putZeroTest (s : State) (v : Word) : Result := .next ((s.setT (v == 0)).advance)

/-- The byte at GBR + R0 is read, changed and written back, always in that order (R84, R224), in two accesses between which
another master may write it (R73). -/
def modifyByte (s : State) (f : Word → Word) : Result :=
  readThen s 0 .byte (eaGbrIndexed s) s fun t b =>
    writeThen t .byte (eaGbrIndexed s) (f b) t fun t => .next t.advance

/-- `AND Rm,Rn`, R210. -/
def execAndR (m n : Reg) (s : State) : Result := putLogic s n (s.reg n &&& s.reg m)

/-- `AND #imm,R0`, R211. -/
def execAndImm (imm : BitVec 8) (s : State) : Result := putLogic s 0 (s.reg 0 &&& immUnsigned imm)

/-- `AND.B #imm,@(R0,GBR)`, R212. -/
def execAndB (imm : BitVec 8) (s : State) : Result := modifyByte s (· &&& immUnsigned imm)

/-- `NOT Rm,Rn`, R213. -/
def execNotR (m n : Reg) (s : State) : Result := putLogic s n (~~~s.reg m)

/-- `OR Rm,Rn`, R214. -/
def execOrR (m n : Reg) (s : State) : Result := putLogic s n (s.reg n ||| s.reg m)

/-- `OR #imm,R0`, R215. -/
def execOrImm (imm : BitVec 8) (s : State) : Result := putLogic s 0 (s.reg 0 ||| immUnsigned imm)

/-- `OR.B #imm,@(R0,GBR)`, R216. -/
def execOrB (imm : BitVec 8) (s : State) : Result := modifyByte s (· ||| immUnsigned imm)

/-- `TAS.B @Rn`: T says the byte was zero; its bit 7 becomes 1 in any case (R217, R84). The bus is held from the read to the
write (R73, D15; log 43). -/
def execTasB (n : Reg) (s : State) : Result :=
  readThen s 0 .byte (eaReg s n) s fun t b =>
    writeHeld t .byte (eaReg s n) (b ||| 0x80) t fun t => .next ((t.setT (b == 0)).advance)

/-- `TST Rm,Rn`, R218. -/
def execTstR (m n : Reg) (s : State) : Result := putZeroTest s (s.reg n &&& s.reg m)

/-- `TST #imm,R0`, R219. -/
def execTstImm (imm : BitVec 8) (s : State) : Result := putZeroTest s (s.reg 0 &&& immUnsigned imm)

/-- `TST.B #imm,@(R0,GBR)`, R220. -/
def execTstB (imm : BitVec 8) (s : State) : Result :=
  readThen s 0 .byte (eaGbrIndexed s) s fun t b => putZeroTest t (b &&& immUnsigned imm)

/-- `XOR Rm,Rn`, R221. -/
def execXorR (m n : Reg) (s : State) : Result := putLogic s n (s.reg n ^^^ s.reg m)

/-- `XOR #imm,R0`, R222. -/
def execXorImm (imm : BitVec 8) (s : State) : Result := putLogic s 0 (s.reg 0 ^^^ immUnsigned imm)

/-- `XOR.B #imm,@(R0,GBR)`, R223. -/
def execXorB (imm : BitVec 8) (s : State) : Result := modifyByte s (· ^^^ immUnsigned imm)

end Sys2Proof.Machine
end

