-- ==== Sys2Proof/Machine/Shift.lean ====
section
/-! DEFINITION. The shift instructions (R230 to R244; 43_shift.md). The one-bit forms put the bit shifted out into T; the
others are logical and do not touch T (R244). -/

namespace Sys2Proof.Machine

/-- Rn one place left with `enter` into bit 0; T takes the old MSB (R244). -/
def shiftLeftOne (s : State) (n : Reg) (enter : Bool) : Result :=
  let x := s.reg n
  .next (((s.setReg n ((x <<< 1) ||| flagWord enter)).setT x.msb).advance)

/-- Rn one place right with `enter` into bit 31; T takes the old LSB (R244). -/
def shiftRightOne (s : State) (n : Reg) (enter : Bool) : Result :=
  let x := s.reg n
  .next (((s.setReg n ((x >>> 1) ||| (flagWord enter <<< 31))).setT (x.getLsbD 0)).advance)

/-- Rn takes a shifted value; T is not touched. -/
def putShifted (s : State) (n : Reg) (v : Word) : Result := .next ((s.setReg n v).advance)

/-- `ROTL Rn`, R230. -/
def execRotl (n : Reg) (s : State) : Result := shiftLeftOne s n (s.reg n).msb

/-- `ROTR Rn`, R231. -/
def execRotr (n : Reg) (s : State) : Result := shiftRightOne s n ((s.reg n).getLsbD 0)

/-- `ROTCL Rn`, R232. -/
def execRotcl (n : Reg) (s : State) : Result := shiftLeftOne s n s.t

/-- `ROTCR Rn`, R233. -/
def execRotcr (n : Reg) (s : State) : Result := shiftRightOne s n s.t

/-- `SHAL Rn`, R234. -/
def execShal (n : Reg) (s : State) : Result := shiftLeftOne s n false

/-- `SHAR Rn`: the sign bit stays (R235). -/
def execShar (n : Reg) (s : State) : Result := shiftRightOne s n (s.reg n).msb

/-- `SHLL Rn`, R236. -/
def execShll (n : Reg) (s : State) : Result := shiftLeftOne s n false

/-- `SHLR Rn`, R237. -/
def execShlr (n : Reg) (s : State) : Result := shiftRightOne s n false

/-- `SHLL2 Rn`, R238. -/
def execShll2 (n : Reg) (s : State) : Result := putShifted s n (s.reg n <<< 2)

/-- `SHLR2 Rn`, R239. -/
def execShlr2 (n : Reg) (s : State) : Result := putShifted s n (s.reg n >>> 2)

/-- `SHLL8 Rn`, R240. -/
def execShll8 (n : Reg) (s : State) : Result := putShifted s n (s.reg n <<< 8)

/-- `SHLR8 Rn`, R241. -/
def execShlr8 (n : Reg) (s : State) : Result := putShifted s n (s.reg n >>> 8)

/-- `SHLL16 Rn`, R242. -/
def execShll16 (n : Reg) (s : State) : Result := putShifted s n (s.reg n <<< 16)

/-- `SHLR16 Rn`, R243. -/
def execShlr16 (n : Reg) (s : State) : Result := putShifted s n (s.reg n >>> 16)

end Sys2Proof.Machine
end

