-- ==== Sys2Proof/Machine/SystemControl.lean ====
section
/-! DEFINITION. The system control instructions (R280 to R311; 45_system_control.md). None is privileged (R350). Those that
use MACH or MACL may not run while MULT is in module standby (R384; log 33). -/

namespace Sys2Proof.Machine

/-! ### Writing the control and system registers (R311) -/

def State.setGbr (s : State) (v : Word) : State := { s with gbr := v }
def State.setVbr (s : State) (v : Word) : State := { s with vbr := v }
def State.setPr (s : State) (v : Word) : State := { s with pr := v }

/-- LDS and LDS.L write MACH explicitly, which ends what R38 (a) tracks for it. -/
def State.setMach (s : State) (v : Word) : State := { s with mach := v, multSinceMach := false }

/-- The same for MACL. -/
def State.setMacl (s : State) (v : Word) : State := { s with macl := v, multSinceMacl := false }

/-- LDC and LDS: a register write and nothing else. -/
def putSystem (t : State) : Result := .next t.advance

/-- LDC.L and LDS.L: the longword at `@Rm+` goes to `put`, and Rm is incremented (R285 to R287, R291 to R293). -/
def loadSystem (s : State) (m : Reg) (put : State → Word → State) : Result :=
  readThen s 0 .long (eaReg s m) (s.baseAfterError 0 m (incremented s .long m)) fun t v =>
    .next ((put (t.setReg m (incremented s .long m)) v).advance)

/-- STC and STS: Rn takes a register. -/
def storeSystem (s : State) (n : Reg) (v : Word) : Result := .next ((s.setReg n v).advance)

/-- STC.L and STS.L: a register is stored at `@-Rn` (R301 to R303, R307 to R309). -/
def pushSystem (s : State) (n : Reg) (v : Word) : Result :=
  writeThen s .long (eaPreDec s .long n) v (s.baseAfterError 0 n (eaPreDec s .long n)) fun t =>
    .next ((t.setReg n (eaPreDec s .long n)).advance)

/-! ### Clears and sets -/

/-- `CLRT`, R280. -/
def execClrt (s : State) : Result := .next ((s.setT false).advance)

/-- `CLRMAC`, R281. -/
def execClrmac (s : State) : Result := multiplierGuard s (.next (((s.setMach 0).setMacl 0).advance))

/-- `SETT`, R296. -/
def execSett (s : State) : Result := .next ((s.setT true).advance)

/-! ### Loads to control registers -/

/-- `LDC Rm,SR`, R282. -/
def execLdcSr (m : Reg) (s : State) : Result := putSystem (s.setSr (s.reg m))

/-- `LDC Rm,GBR`, R283. -/
def execLdcGbr (m : Reg) (s : State) : Result := putSystem (s.setGbr (s.reg m))

/-- `LDC Rm,VBR`, R284. -/
def execLdcVbr (m : Reg) (s : State) : Result := putSystem (s.setVbr (s.reg m))

/-- `LDC.L @Rm+,SR`, R285. A misaligned one leaves neither SR nor Rm to rely on, so SR too is left open before the address
error is taken (log 6). -/
def execLdcLSr (m : Reg) (s : State) : Result :=
  let err := (s.baseAfterError 0 m (incremented s .long m)).setSr (Config.undefinedWord s.tick 0)
  readThen s 0 .long (eaReg s m) err fun t v =>
    .next (((t.setReg m (incremented s .long m)).setSr v).advance)

/-- `LDC.L @Rm+,GBR`, R286. -/
def execLdcLGbr (m : Reg) (s : State) : Result := loadSystem s m State.setGbr

/-- `LDC.L @Rm+,VBR`, R287. -/
def execLdcLVbr (m : Reg) (s : State) : Result := loadSystem s m State.setVbr

/-! ### Loads to system registers -/

/-- `LDS Rm,MACH`, R288. -/
def execLdsMach (m : Reg) (s : State) : Result := multiplierGuard s (putSystem (s.setMach (s.reg m)))

/-- `LDS Rm,MACL`, R289. -/
def execLdsMacl (m : Reg) (s : State) : Result := multiplierGuard s (putSystem (s.setMacl (s.reg m)))

/-- `LDS Rm,PR`, R290. -/
def execLdsPr (m : Reg) (s : State) : Result := putSystem (s.setPr (s.reg m))

/-- `LDS.L @Rm+,MACH`, R291. -/
def execLdsLMach (m : Reg) (s : State) : Result := multiplierGuard s (loadSystem s m State.setMach)

/-- `LDS.L @Rm+,MACL`, R292. -/
def execLdsLMacl (m : Reg) (s : State) : Result := multiplierGuard s (loadSystem s m State.setMacl)

/-- `LDS.L @Rm+,PR`, R293. -/
def execLdsLPr (m : Reg) (s : State) : Result := loadSystem s m State.setPr

/-! ### NOP, RTE, SLEEP, TRAPA -/

/-- `NOP`, R294. -/
def execNop (s : State) : Result := .next s.advance

/-- `RTE`, R295. -/
def execRte (s : State) : Result := notInSlot s (returnFromException s)

/-- `SLEEP`: PC has advanced when the CPU goes to sleep or standby (R297, D25; log 22). -/
def execSleep (s : State) : Result := .next (powerDown s.advance)

/-- `TRAPA #imm`: the exception of vector `imm` with `pc + 2` saved, SR unchanged (R310, R325). -/
def execTrapa (imm : BitVec 8) (s : State) : Result := notInSlot s (exceptionEntry s imm (s.pc + 2) none)

/-! ### Stores from control registers -/

/-- `STC SR,Rn`: reserved bits read 0 (R298, R311, D40). -/
def execStcSr (n : Reg) (s : State) : Result := storeSystem s n s.srValue

/-- `STC GBR,Rn`, R299. -/
def execStcGbr (n : Reg) (s : State) : Result := storeSystem s n s.gbr

/-- `STC VBR,Rn`, R300. -/
def execStcVbr (n : Reg) (s : State) : Result := storeSystem s n s.vbr

/-- `STC.L SR,@-Rn`: reserved bits read 0 (R301, R311, D40). -/
def execStcLSr (n : Reg) (s : State) : Result := pushSystem s n s.srValue

/-- `STC.L GBR,@-Rn`, R302. -/
def execStcLGbr (n : Reg) (s : State) : Result := pushSystem s n s.gbr

/-- `STC.L VBR,@-Rn`, R303. -/
def execStcLVbr (n : Reg) (s : State) : Result := pushSystem s n s.vbr

/-! ### Stores from system registers -/

/-- `STS MACH,Rn`, R304. -/
def execStsMach (n : Reg) (s : State) : Result := multiplierGuard s (storeSystem s n s.mach)

/-- `STS MACL,Rn`, R305. -/
def execStsMacl (n : Reg) (s : State) : Result := multiplierGuard s (storeSystem s n s.macl)

/-- `STS PR,Rn`, R306. -/
def execStsPr (n : Reg) (s : State) : Result := storeSystem s n s.pr

/-- `STS.L MACH,@-Rn`, R307. -/
def execStsLMach (n : Reg) (s : State) : Result := multiplierGuard s (pushSystem s n s.mach)

/-- `STS.L MACL,@-Rn`, R308. -/
def execStsLMacl (n : Reg) (s : State) : Result := multiplierGuard s (pushSystem s n s.macl)

/-- `STS.L PR,@-Rn`, R309. -/
def execStsLPr (n : Reg) (s : State) : Result := pushSystem s n s.pr

end Sys2Proof.Machine
end

