-- ==== Sys2Proof/Machine/Step.lean ====
section
/-! DEFINITION. One step of the machine (R13): reset, then the bus, then a wake-up, a DMA address error or an interrupt, else one
instruction. -/

namespace Sys2Proof.Machine

/-- Fetch, decode and execute the instruction at `pc` (R13, 3). A fetch from an odd address is an address error that saves
`pc` itself (R323 a, R331); an undefined word is an illegal instruction (R109). The fetched bytes are text of this run
(R78). -/
def executeNext (s : State) : Result :=
  match fetch s with
  | .addressError => exceptionEntry s vecAddressError s.pc none
  | .fault r => .fault r
  | .refused r => .refused r
  | .word w =>
    match decode w with
    | .ok i => exec i s.markFetched
    | .error _ => illegalInstruction s.markFetched

/-- A running CPU at a boundary: with no delay slot pending, first a DMA address error, unless `pc` is odd, then an
acceptable interrupt (R257, R335, R338); else the next instruction. An odd `pc` is the CPU's own address error, which goes
before the DMA controller's (R338; log 13). -/
def runStep (inp : Input) (s : State) : Result :=
  match s.delay with
  | some _ => executeNext s
  | none =>
    if inp.dmaError then
      if aligned .word s.pc then dmaErrorEntry s else executeNext s
    else match acceptedRequest s.imask inp.requests with
      | some r => interruptEntry s r
      | none => executeNext s

/-- What the processing state makes of a boundary at which there is neither reset nor a bus request. -/
def modeStep (inp : Input) (s : State) : Result :=
  match s.mode with
  | .run => runStep inp s
  | .busReleased => runStep inp { s with mode := .run }
  | .sleep => sleepStep inp s
  | .standby => standbyStep inp s

/-- One step (R13, R338): a requested reset overrides everything (R370); while the bus is released the CPU executes
nothing (R353). -/
def step (s : State) : Host.Outcome State Fault Refusal :=
  match s.boundary.reset with
  | some kind => resetSequence kind s.begin
  | none =>
    match s.boundary.bus with
    | some ws => .next (s.begin.releaseBus ws)
    | none => modeStep s.boundary s.begin

/-- `s` with a 16-bit instruction word stored where the next step fetches it (R62, R68), counted as loaded from outside the
run (R78), in program execution and with nothing presented at the next boundary; log 26. -/
def State.withFetchWord (s : State) (nbits w : Nat) : State :=
  let code : Half := BitVec.ofNat 16 (w % 2 ^ nbits)
  let hi := s.pc.toNat
  let lo := (s.pc + 1).toNat
  { s with
    mem := Memory.put (Memory.put s.mem hi (code.extractLsb' 8 8)) lo (code.extractLsb' 0 8)
    storedAt := s.storedAt.filter fun a => a != hi && a != lo
    mode := .run
    inputs := Input.idle :: s.inputs }

end Sys2Proof.Machine
end

