-- ==== Sys2Proof/Safety.lean ====
section
/-! DEFINITION. The terms in which claims about the machine are stated: the invariant of the state; what an instruction
may write and that it writes nothing else; how an instruction completes; what an exception leaves; the lists of writers
of 10_state.md. -/

namespace Sys2Proof.Machine

/-! ### The invariant -/

/-- The reserved bits of SR are 0 (R29). -/
abbrev SrReservedClear (w : Word) : Prop := w &&& ~~~srMask = 0

/-- What holds of every reachable state: memory and the two sets of addresses are in their canonical form, the reserved
bits of SR are 0 (R29), no delay slot is pending in a power-down mode (R297), and a stopped DMAC has its master enable
bit clear (R357). -/
structure State.Inv (s : State) : Prop where
  memory : Memory.wf s.mem
  storedAt : AddressSet.wf s.storedAt
  fetchedAt : AddressSet.wf s.fetchedAt
  reserved : SrReservedClear s.sr
  asleep : s.mode = .sleep ∨ s.mode = .standby → s.delay = none
  dma : s.platform.stopDmac = true → s.platform.dme = false

/-! ### Other bus masters (R75, R353) -/

/-- The state after other masters' writes before the next `n` data accesses: its memory has them, in order, and those over
text of this run are marked (R78); nothing else but the script of those writes has changed. -/
def State.arbitrated : Nat → State → State
  | 0, s => s
  | n + 1, s => s.arbitrate.arbitrated n

/-! ### Frames -/

/-- What an instruction may write. What is not named here stays. -/
structure Writes where
  /-- General registers. -/
  regs : List Reg := []
  /-- Bits of SR. -/
  srBits : List Nat := []
  gbr : Bool := false
  vbr : Bool := false
  pr : Bool := false
  mach : Bool := false
  macl : Bool := false
  /-- Whether a multiplication is noted as executed since MACH and MACL were last written (R38 a). -/
  inFlight : Bool := false
  /-- The addresses of the bytes stored to. -/
  stored : List Word := []
  /-- The number of its data accesses that other masters may write before (R75, R353). -/
  accesses : Nat := 0

/-- All bits of SR. -/
def allSrBits : List Nat := List.range 32

/-- From `s` to `t` nothing has changed but what `w` names, the program counter and the pending delay slot. Memory is
compared through the machine's own read of one byte, at every address and for every access number; where the instruction
accesses memory, with what other masters wrote before its accesses, and so are the bytes that may no longer be fetched. -/
structure Frame (w : Writes) (s t : State) : Prop where
  regs : ∀ r, r ∉ w.regs → t.reg r = s.reg r
  sr : ∀ i, i ∉ w.srBits → t.sr.getLsbD i = s.sr.getLsbD i
  gbr : w.gbr = false → t.gbr = s.gbr
  vbr : w.vbr = false → t.vbr = s.vbr
  pr : w.pr = false → t.pr = s.pr
  mach : w.mach = false → t.mach = s.mach
  macl : w.macl = false → t.macl = s.macl
  inFlight : w.inFlight = false → t.multSinceMach = s.multSinceMach ∧ t.multSinceMacl = s.multSinceMacl
  memory : ∀ k a, a ∉ w.stored → t.byteAt k a = (s.arbitrated w.accesses).byteAt k a
  marked : ∀ a, a ∈ t.storedAt → a ∈ (s.arbitrated w.accesses).storedAt ∨ ∃ b ∈ w.stored, b.toNat = a
  stillMarked : ∀ a, a ∈ (s.arbitrated w.accesses).storedAt → a ∈ t.storedAt
  fetchedAt : t.fetchedAt = s.fetchedAt
  mode : t.mode = s.mode
  platform : t.platform = s.platform
  map : t.map = s.map
  inputs : t.inputs = s.inputs
  between : t.between = (s.arbitrated w.accesses).between
  tick : t.tick = s.tick

/-- Control goes to the next word, or from a delay slot to the pending target (R34, R36). -/
def Sequential (s t : State) : Prop := t.pc = s.delay.getD (s.pc + 2) ∧ t.delay = none

/-! ### Completion -/

/-- The word `w` is the instruction `i`; `exec i s` answers a next state, which goes on in sequence, has the property
`result`, and differs from `s` in nothing but `c`. -/
def Completes (w : Half) (i : Instr) (s : State) (c : Writes) (result : State → Prop) : Prop :=
  decode w = .ok i ∧ ∃ t, exec i s = .next t ∧ Sequential s t ∧ Frame c s t ∧ result t

/-- As `Completes`, for an instruction that sets the program counter or arms a delayed branch (R251): `pc` and `delay`
are what it leaves there. -/
def BranchesTo (w : Half) (i : Instr) (s : State) (pc : Word) (delay : Option Word) (c : Writes)
    (result : State → Prop) : Prop :=
  decode w = .ok i ∧ ∃ t, exec i s = .next t ∧ t.pc = pc ∧ t.delay = delay ∧ Frame c s t ∧ result t

/-- The datum of a load: the big-endian value of the bytes at `a` (R62, R66), sign-extended to a longword (R42). -/
def loadedValue (s : State) (k : Nat) (sz : Size) (a : Word) : Word :=
  match sz with
  | .byte => (s.byteAt k a).signExtend 32
  | .word => (s.byteAt k a ++ s.byteAt k (a + 1)).signExtend 32
  | .long => s.byteAt k a ++ s.byteAt k (a + 1) ++ s.byteAt k (a + 2) ++ s.byteAt k (a + 3)

/-- Memory at `a` holds `v`'s low bytes, most significant byte lowest (R62, R67). A device's bytes are its own (R66). -/
def Holds (t : State) (sz : Size) (a v : Word) : Prop :=
  let has (b : Word) (x : Byte) := t.kindAt b ≠ .device → ∀ k, t.byteAt k b = x
  match sz with
  | .byte => has a (v.extractLsb' 0 8)
  | .word => has a (v.extractLsb' 8 8) ∧ has (a + 1) (v.extractLsb' 0 8)
  | .long =>
    has a (v.extractLsb' 24 8) ∧ has (a + 1) (v.extractLsb' 16 8) ∧ has (a + 2) (v.extractLsb' 8 8) ∧
      has (a + 3) (v.extractLsb' 0 8)

/-- Aligned with nothing there, the access that `i` begins with stops the machine (U3, log 30). -/
def StopsWhereAbsent (i : Instr) (s : State) (sz : Size) (a : Word) : Prop :=
  aligned sz a = true → s.mapped sz a = false → exec i s = .fault .absentAddress

/-- And so does a store with ROM there. -/
def StopsWhereNotWritable (i : Instr) (s : State) (sz : Size) (a : Word) : Prop :=
  StopsWhereAbsent i s sz a ∧
  (aligned sz a = true → s.mapped sz a = true → s.writable sz a = false → exec i s = .fault .romStore)

/-- A load of `Rn` from `a`: aligned and mapped, it completes with the datum in Rn, as other masters have left it, and
changes nothing else; with nothing at `a` it stops (U3); misaligned, it raises the address error and changes nothing
(D5). -/
def Loads (w : Half) (i : Instr) (s : State) (sz : Size) (a : Word) (n : Reg) : Prop :=
  (aligned sz a = true → s.mapped sz a = true →
    Completes w i s { regs := [n], accesses := 1 } fun t => t.reg n = loadedValue s.arbitrate 0 sz a) ∧
  StopsWhereAbsent i s sz a ∧
  (aligned sz a = false → decode w = .ok i ∧ exec i s = addressErrorEntry s)

/-- A load from `@Rm+` into whatever `result` and `c` name: aligned and mapped, it completes; with nothing there it stops
(U3); misaligned, it raises the address error, and only Rm may have changed, to its incremented value (U2). -/
def LoadsInc (w : Half) (i : Instr) (s : State) (sz : Size) (m : Reg) (c : Writes) (result : State → Prop) : Prop :=
  (aligned sz (s.reg m) = true → s.mapped sz (s.reg m) = true → Completes w i s { c with accesses := 1 } result) ∧
  StopsWhereAbsent i s sz (s.reg m) ∧
  (aligned sz (s.reg m) = false → decode w = .ok i ∧
    ∃ u, (u = s ∨ u = s.setReg m (s.reg m + sz.bytes)) ∧ exec i s = addressErrorEntry u)

/-- A store of `v` at `a`: aligned, mapped and not ROM, it completes with the bytes stored and changes nothing else; with
nothing or ROM there it stops (U3); misaligned, it raises the address error and changes nothing (D5). -/
def Stores (w : Half) (i : Instr) (s : State) (sz : Size) (a v : Word) : Prop :=
  (aligned sz a = true → s.mapped sz a = true → s.writable sz a = true →
    Completes w i s { stored := span sz a, accesses := 1 } fun t => Holds t sz a v) ∧
  StopsWhereNotWritable i s sz a ∧
  (aligned sz a = false → decode w = .ok i ∧ exec i s = addressErrorEntry s)

/-- A store of `v` at `@-Rn`: aligned, mapped and not ROM, it completes with the bytes stored at the decremented address
and Rn holding that address; with nothing or ROM there it stops (U3); misaligned, it raises the address error, and only
Rn may have changed (U2). -/
def StoresDec (w : Half) (i : Instr) (s : State) (sz : Size) (n : Reg) (v : Word) : Prop :=
  let a := s.reg n - sz.bytes
  (aligned sz a = true → s.mapped sz a = true → s.writable sz a = true →
    Completes w i s { regs := [n], stored := span sz a, accesses := 1 } fun t => Holds t sz a v ∧ t.reg n = a) ∧
  StopsWhereNotWritable i s sz a ∧
  (aligned sz a = false → decode w = .ok i ∧
    ∃ u, (u = s ∨ u = s.setReg n a) ∧ exec i s = addressErrorEntry u)

/-- The byte at `a` is read, changed by `f` and written back; nothing else but `srBits` changes (R84, R224). Other masters
may write before the read, and, where `accesses` is 2, again before the write (R73). With nothing or ROM there it stops
(U3). -/
def ModifiesByte (w : Half) (i : Instr) (s : State) (a : Word) (f : Byte → Byte) (srBits : List Nat) (accesses : Nat)
    (result : State → Prop) : Prop :=
  (s.mapped .byte a = true → s.writable .byte a = true →
    Completes w i s { srBits := srBits, stored := [a], accesses := accesses } fun t =>
      (s.kindAt a ≠ .device → ∀ k, t.byteAt k a = f (s.arbitrate.byteAt 0 a)) ∧ result t) ∧
  StopsWhereNotWritable i s .byte a

/-- What an instruction with a misaligned access leaves before the address error is taken: only `regs` and `srBits` may
have changed (U2, R285), and what other masters wrote before the `accesses` made until then. -/
def LeftByAddressError (regs : List Reg) (srBits : List Nat) (accesses : Nat) (s u : State) : Prop :=
  Frame { regs := regs, srBits := srBits, accesses := accesses } s u ∧ u.pc = s.pc ∧ u.delay = s.delay

/-! ### Exceptions -/

/-- The two pushes and the vector fetch of an entry can be made (R330, R339). -/
def CanEnter (s : State) (v : BitVec 8) : Prop :=
  aligned .long (s.reg 15) = true ∧
  s.mapped .long (s.reg 15 - 4) = true ∧ s.writable .long (s.reg 15 - 4) = true ∧
  s.mapped .long (s.reg 15 - 8) = true ∧ s.writable .long (s.reg 15 - 8) = true ∧
  aligned .long s.vbr = true ∧ s.mapped .long (s.vbr + v.setWidth 32 * 4) = true

/-- The longword `v` is stored at `a` in one access, and nothing else is done. -/
structure Pushed (s : State) (a v : Word) (t : State) : Prop where
  holds : Holds t .long a v
  frame : Frame { stored := span .long a, accesses := 1 } s t

/-- `t` is `s` after exception entry (R330): SR is pushed (`s1`), then the saved PC below it (`s2`); then R15 is eight
lower, the new level in SR.I if there is one, no delay slot pending, `mode` run, PC the longword at VBR + 4v as memory
then holds it, and nothing else has changed. Other masters may write before each of the three accesses (R353); where none
does, both longwords still stand on the stack. -/
structure Entered (s : State) (v : BitVec 8) (savedPc : Word) (level : Option (BitVec 4)) (t : State) : Prop where
  sp : t.reg 15 = s.reg 15 - 8
  mask : ∀ l, level = some l → t.imask = l
  pc : t.pc = loadedValue t vectorAccess .long (s.vbr + v.setWidth 32 * 4)
  delay : t.delay = none
  mode : t.mode = .run
  pushes : ∃ s1 s2, Pushed s (s.reg 15 - 4) s.srValue s1 ∧ Pushed s1 (s.reg 15 - 8) savedPc s2 ∧
    Frame { regs := [15], srBits := if level = none then [] else [4, 5, 6, 7], accesses := 1 }
      { s2 with mode := .run } t
  undisturbed : s.between = [] →
    Holds t .long (s.reg 15 - 4) s.srValue ∧ Holds t .long (s.reg 15 - 8) savedPc

/-! ### Boundaries -/

/-- The word after the one at `pc` is the instruction `j`, as the next step would fetch it: something lies there, and its
bytes are memory's, or what a peripheral returns to that fetch (R256; log 21). -/
def FollowedBy (s : State) (j : Instr) : Prop :=
  s.mapped .word (s.pc + 2) = true ∧ decode (({ s with tick := s.tick + 1 } : State).codeAt (s.pc + 2)) = .ok j

/-- A boundary at which the next instruction runs: no reset, no bus request, the CPU not in a power-down mode, and, where no
delay slot is pending, no DMA address error and no acceptable interrupt (R13, R257, R335, R353). -/
def ReadyToExecute (s : State) : Prop :=
  s.boundary.reset = none ∧ s.boundary.bus = none ∧ (s.mode = .run ∨ s.mode = .busReleased) ∧
  (s.delay = none → s.boundary.dmaError = false ∧ acceptedRequest s.imask s.boundary.requests = none)

/-- The state in which that instruction is fetched: the boundary's input taken, with what other masters write during the step,
the platform's registers as supplied, the step's number advanced, the bus back with the CPU. -/
def executing (s : State) : State := { s.begin with mode := .run }

/-- The next step can fetch the word at `pc` and it is `w`: something lies there that may be fetched (R68, R78, R82);
its bytes are memory's, or what a peripheral returns to that fetch (R66). -/
def FetchesWord (s : State) (w : Half) : Prop :=
  s.pc.getLsbD 0 = false ∧
  (s.kindAt s.pc ≠ .absent ∧ s.pc.toNat ∉ s.storedAt) ∧
  (s.kindAt (s.pc + 1) ≠ .absent ∧ (s.pc + 1).toNat ∉ s.storedAt) ∧
  w = (executing s).byteAt fetchAccess s.pc ++ (executing s).byteAt fetchAccess (s.pc + 1)

end Sys2Proof.Machine

namespace Sys2Proof

/-! ### Instruction codes (R102) -/

/-- Format nm, and with a displacement as its last nibble format nmd. -/
def codeNM (op : BitVec 4) (n m : Reg) (last : BitVec 4) : Half := op ++ field n ++ field m ++ last

/-- Formats n and m. -/
def codeN (op : BitVec 4) (r : Reg) (last : BitVec 8) : Half := op ++ field r ++ last

/-- Formats md and nd4. -/
def codeRD (op : BitVec 8) (r : Reg) (d : BitVec 4) : Half := op ++ field r ++ d

/-- Formats d and i. -/
def codeI (op : BitVec 8) (v : BitVec 8) : Half := op ++ v

/-- Formats nd8 and ni. -/
def codeNI (op : BitVec 4) (n : Reg) (v : BitVec 8) : Half := op ++ field n ++ v

/-- Format d12. -/
def codeD12 (op : BitVec 4) (d : BitVec 12) : Half := op ++ d

/-- The undefined words, by the table of R108. -/
def UndefinedWord (w : Half) : Prop :=
  let n := (w.extractLsb' 8 4).toNat
  let f := (w.extractLsb' 4 4).toNat
  let l := (w.extractLsb' 0 4).toNat
  match (w.extractLsb' 12 4).toNat with
  | 0 =>
    l = 0 ∨ l = 1 ∨ (l = 2 ∧ 3 ≤ f) ∨ (l = 3 ∧ f ≠ 0 ∧ f ≠ 2) ∨
      (l = 8 ∧ w ≠ 0x0008 ∧ w ≠ 0x0018 ∧ w ≠ 0x0028) ∨ (l = 9 ∧ w ≠ 0x0009 ∧ w ≠ 0x0019 ∧ f ≠ 2) ∨
      (l = 10 ∧ 3 ≤ f) ∨ (l = 11 ∧ w ≠ 0x000B ∧ w ≠ 0x001B ∧ w ≠ 0x002B)
  | 2 => l = 3
  | 3 => l = 1 ∨ l = 9
  | 4 => l = 12 ∨ l = 13 ∨ (l ≠ 15 ∧ 3 ≤ f) ∨ (l = 4 ∧ f = 1)
  | 8 => n = 2 ∨ n = 3 ∨ n = 6 ∨ n = 7 ∨ n = 10 ∨ n = 12 ∨ n = 14
  | 15 => True
  | _ => False

/-! ### The lists of writers of 10_state.md -/

/-- The instructions that replace SR as a whole (R41, first row). -/
def Instr.writesSr : Instr → Bool
  | .ldcSr _ | .ldcLSr _ | .rte => true
  | _ => false

/-- The instructions that write SR.T (R25). -/
def Instr.writesT : Instr → Bool
  | .addc _ _ | .addv _ _ | .cmpEqImm _ | .cmpEq _ _ | .cmpHs _ _ | .cmpGe _ _ | .cmpHi _ _ | .cmpGt _ _ | .cmpPz _ |
    .cmpPl _ | .cmpStr _ _ | .div1 _ _ | .div0s _ _ | .div0u | .dt _ | .negc _ _ | .subc _ _ | .subv _ _ | .tasB _ |
    .tstR _ _ | .tstImm _ | .tstB _ | .rotl _ | .rotcl _ | .shal _ | .shll _ | .rotr _ | .rotcr _ | .shar _ | .shlr _ |
    .clrt | .sett | .ldcSr _ | .ldcLSr _ | .rte => true
  | _ => false

/-- The instructions that write SR.M (R27, R41). -/
def Instr.writesM : Instr → Bool
  | .div0s _ _ | .div0u | .ldcSr _ | .ldcLSr _ | .rte => true
  | _ => false

/-- The instructions that write SR.Q (R27, R41). -/
def Instr.writesQ : Instr → Bool
  | .div0s _ _ | .div0u | .div1 _ _ | .ldcSr _ | .ldcLSr _ | .rte => true
  | _ => false

/-- The instructions that write GBR (R30, R41). -/
def Instr.writesGbr : Instr → Bool
  | .ldcGbr _ | .ldcLGbr _ => true
  | _ => false

/-- The instructions that write VBR (R31, R41). -/
def Instr.writesVbr : Instr → Bool
  | .ldcVbr _ | .ldcLVbr _ => true
  | _ => false

/-- The instructions that write PR (R33, R41). -/
def Instr.writesPr : Instr → Bool
  | .ldsPr _ | .ldsLPr _ | .bsr _ | .bsrf _ | .jsr _ => true
  | _ => false

/-- The instructions that write MACH (R32, R41). -/
def Instr.writesMach : Instr → Bool
  | .ldsMach _ | .ldsLMach _ | .clrmac | .dmulsL _ _ | .dmuluL _ _ | .macL _ _ | .macW _ _ => true
  | _ => false

/-- The instructions that write MACL (R32, R41). -/
def Instr.writesMacl : Instr → Bool
  | .ldsMacl _ | .ldsLMacl _ | .clrmac | .dmulsL _ _ | .dmuluL _ _ | .macL _ _ | .macW _ _ | .mulL _ _ | .mulsW _ _ |
    .muluW _ _ => true
  | _ => false

/-- The instructions that use the multiplier or access MACH or MACL (R384). -/
def Instr.usesMultiplier : Instr → Bool
  | .dmulsL _ _ | .dmuluL _ _ | .macL _ _ | .macW _ _ | .mulL _ _ | .mulsW _ _ | .muluW _ _ | .clrmac | .ldsMach _ |
    .ldsMacl _ | .ldsLMach _ | .ldsLMacl _ | .stsMach _ | .stsMacl _ | .stsLMach _ | .stsLMacl _ => true
  | _ => false

/-- The instructions that arm a delayed branch (R251). -/
def Instr.isDelayedBranch : Instr → Bool
  | .bfS _ | .btS _ | .bra _ | .braf _ | .bsr _ | .bsrf _ | .jmp _ | .jsr _ | .rts | .rte => true
  | _ => false

end Sys2Proof
end

