-- ==== Sys2Proof/Certificates/Slice0/Obligations.lean ====
section
/-! DEFINITION. The statements for the provers. A docstring names the rules a statement formalises and, where it rests on a
decision or a choice rather than on the source, says which (D<n> of 92_eei_decisions.md, U<n> of 93_implementation_defined.md,
log <n> of notes/assumptions). -/

open Sys2Proof Sys2Proof.Machine

/-- Decoding the code of any instruction gives that instruction.
The encoder is written from the instruction-code columns (R101, R102), the decoder from the opcode map (R106, R107).
Every instruction of the syntax is covered: its operands are exactly the values of its fields (R103). -/
def Obligations.EncodedInstructionDecodesToItself : Prop :=
  ∀ i : Instr, decode (encode i) = .ok i

/-- A word that decodes is the code of the instruction it decodes to.
R107: the rows are disjoint and every fixed bit is compared; R100: the word alone determines the instruction. -/
def Obligations.DecodedWordIsTheCodeOfItsInstruction : Prop :=
  ∀ (w : Half) (i : Instr), decode w = .ok i → encode i = w

/-- A word is rejected exactly when the table of R108 lists it.
`UndefinedWord` is R108's table, cell by cell; the counts the rule also prints are not stated. -/
def Obligations.UndefinedWordsAreExactlyThoseOfTheTable : Prop :=
  ∀ w : Half, (UndefinedWord w → decode w = .error (.undefinedWord w)) ∧ (¬UndefinedWord w → ∃ i, decode w = .ok i)

/-- One word of each family decodes to the instruction the spec gives for it.
The words are the examples of the rules. -/
def Obligations.SampleWordsDecode : Prop :=
  decode 0xE180 = .ok (.movImm 0x80 1) ∧ decode 0x312C = .ok (.addR 2 1) ∧ decode 0xCD0F = .ok (.andB 0x0F) ∧
  decode 0x4104 = .ok (.rotl 1) ∧ decode 0x8BFE = .ok (.bf 0xFE) ∧ decode 0x400E = .ok (.ldcSr 0) ∧
  decode 0xC320 = .ok (.trapa 0x20) ∧ decode 0x1122 = .ok (.movLStoreDisp 2 2 1)

/-- A step runs the instruction that the word at pc decodes to.
R13, third case. The moves of `pc` past the word and into and out of a delay slot are part of each meaning (R34, R251),
so nothing else is added around `exec` but the note of the fetched bytes that R78 needs (log 23). Which boundary inputs
stand here is the model's (log 36, log 38, log 39), and what a fetch from peripheral space reads (log 28, log 29). -/
def Obligations.StepRunsTheDecodedInstruction : Prop :=
  ∀ (s : State) (w : Half) (i : Instr), ReadyToExecute s → FetchesWord s w → decode w = .ok i →
    step s = exec i (executing s).markFetched ∧
    (executing s).markFetched = { s with
      mode := .run, inputs := s.inputs.tail, between := s.boundary.between, tick := s.tick + 1,
      fetchedAt := AddressSet.insertAll s.fetchedAt [s.pc, s.pc + 1],
      platform := match s.boundary.platform with
        | some p => p.settled
        | none => s.platform }

/-- What a step does when the word at pc cannot be run as an instruction.
The vectors, the saved PCs and that an undefined word raises an exception are the spec's decisions D6, D7, D8, D10 and
D28 (log 7, 8, 9, 11); the fault and the refusal are U3 and D16 (log 30, 23). -/
def Obligations.FetchesThatRunNoInstruction : Prop :=
  ∀ s : State, ReadyToExecute s →
    (s.pc.getLsbD 0 = true → step s = exceptionEntry (executing s) 9 s.pc none) ∧
    (s.pc.getLsbD 0 = false → (s.kindAt s.pc = .absent ∨ s.kindAt (s.pc + 1) = .absent) → step s = .fault .absentAddress) ∧
    (s.pc.getLsbD 0 = false → s.kindAt s.pc ≠ .absent → s.kindAt (s.pc + 1) ≠ .absent →
      (s.pc.toNat ∈ s.storedAt ∨ (s.pc + 1).toNat ∈ s.storedAt) → step s = .refused .selfModifiedCode) ∧
    (∀ w, FetchesWord s w → UndefinedWord w →
      (s.delay = none → step s = exceptionEntry (executing s).markFetched 4 s.pc none) ∧
      (∀ target, s.delay = some target → step s = exceptionEntry (executing s).markFetched 6 target none))

/-- Exception entry pushes SR then the saved PC and goes to the handler, or faults.
The order of the pushes is D9 (log 10), the saved PC D10 (log 11), the vector D8 (log 9), the fault D36 (log 31). What
other masters write before an access is D14 (log 36). -/
def Obligations.ExceptionEntryPushesSrAndPcAndJumps : Prop :=
  ∀ (s : State) (v : BitVec 8) (savedPc : Word) (level : Option (BitVec 4)),
    (CanEnter s v → ∃ t, exceptionEntry s v savedPc level = .next t ∧ Entered s v savedPc level t) ∧
    (¬CanEnter s v → exceptionEntry s v savedPc level = .fault .exceptionEntry) ∧
    addressErrorEntry s = exceptionEntry s 9 (s.delay.getD (s.pc + 2)) none

/-- An instruction of R253's list in a delay slot takes slot illegal instruction and does nothing else.
The list, the vector and the saved PC are D7, D8 and D10 (log 8, 9, 11). -/
def Obligations.BranchClassInDelaySlotIsSlotIllegal : Prop :=
  ∀ (i : Instr) (s : State) (target : Word), i.isBranchClass = true → s.delay = some target →
    exec i s = exceptionEntry s 6 target none

/-- A running CPU takes a DMA address error, then the accepted interrupt, before the next instruction, but not before a
delay slot.
Acceptance at the first boundary at which a request is presented is the model's choice among those D11 permits (log 12);
the order, the CPU's address error before the DMA controller's and that before an interrupt, is D12 (log 13), vector 10
D8 (log 9); that no interrupt is taken between a branch and its slot is D34, and that a DMA address error waits there
too is the model's reading (log 14). -/
def Obligations.InterruptsAndDmaErrorsEnterBetweenInstructions : Prop :=
  ∀ s : State, s.mode = .run ∨ s.mode = .busReleased → s.boundary.reset = none → s.boundary.bus = none →
    (s.delay = none → s.boundary.dmaError = true →
      (s.pc.getLsbD 0 = false → step s = exceptionEntry (executing s) 10 s.pc none) ∧
      (s.pc.getLsbD 0 = true → step s = exceptionEntry (executing s) 9 s.pc none)) ∧
    (s.delay = none → s.boundary.dmaError = false →
      (∀ level vector, acceptedRequest s.imask s.boundary.requests = some (.irq level vector) →
        step s = exceptionEntry (executing s) vector s.pc (some level)) ∧
      (acceptedRequest s.imask s.boundary.requests = some .nmi →
        step s = exceptionEntry (executing s) 11 s.pc (some 15))) ∧
    (∀ target, s.delay = some target → step s = executeNext (executing s))

/-- The accepted request is a pending one of highest level, above the mask; NMI is never masked.
R335 is marked [general knowledge], D11 (log 12). Ties go to the first in the list, as the platform orders it. -/
def Obligations.AcceptedRequestIsTheHighestUnmasked : Prop :=
  ∀ (mask : BitVec 4) (rs : List Request),
    (∀ r, acceptedRequest mask rs = some r → r ∈ rs ∧ mask.toNat < r.level ∧ ∀ q ∈ rs, q.level ≤ r.level) ∧
    ((∃ q ∈ rs, mask.toNat < q.level) → ∃ r, acceptedRequest mask rs = some r) ∧
    (.nmi ∈ rs → acceptedRequest mask rs = some .nmi) ∧
    (∀ vector, acceptedRequest mask rs ≠ some (.irq 0 vector))

/-- Sleep ends on a DMA address error or an accepted interrupt, standby on NMI only.
That a masked interrupt does not end sleep mode is D25 (log 22), that a DMA address error goes before an acceptable
interrupt D12 (log 13), and its vector 10 D8 (log 9). -/
def Obligations.PowerDownEndsOnlyOnItsWakeUpEvents : Prop :=
  ∀ s : State, s.boundary.reset = none → s.boundary.bus = none →
    (s.mode = .sleep →
      (s.boundary.dmaError = true → step s = exceptionEntry s.begin 10 s.pc none) ∧
      (s.boundary.dmaError = false → ∀ level vector,
        acceptedRequest s.imask s.boundary.requests = some (.irq level vector) →
        step s = exceptionEntry s.begin vector s.pc (some level)) ∧
      (s.boundary.dmaError = false → acceptedRequest s.imask s.boundary.requests = some .nmi →
        step s = exceptionEntry s.begin 11 s.pc (some 15)) ∧
      (s.boundary.dmaError = false → acceptedRequest s.imask s.boundary.requests = none → step s = .next s.begin)) ∧
    (s.mode = .standby →
      (.nmi ∈ s.boundary.requests → step s = exceptionEntry s.begin 11 s.pc (some 15)) ∧
      (.nmi ∉ s.boundary.requests → step s = .next s.begin))

/-- While the bus is released the CPU executes nothing and only memory changes.
When the bus is requested and what is written is the platform's (log 36). That a write over text this run has fetched
bars it from fetch, and any other write does not, is D16 and the model's reading of R78 (log 23). -/
def Obligations.BusReleaseChangesMemoryOnly : Prop :=
  ∀ (s : State) (ws : List (Word × Byte)), s.boundary.reset = none → s.boundary.bus = some ws →
    ∃ t, step s = .next t ∧ t.pc = s.pc ∧ t.delay = s.delay ∧ t.fetchedAt = s.fetchedAt ∧
      (∀ n, n ∈ t.storedAt ↔ n ∈ s.storedAt ∨ n ∈ s.fetchedAt ∧ ∃ p ∈ ws, p.1.toNat = n) ∧
      t.mode = (if s.mode = .run then .busReleased else s.mode) ∧
      Frame { stored := ws.map Prod.fst } { s.begin with mode := t.mode } t ∧
      ∀ ws₁ a v ws₂, ws = ws₁ ++ (a, v) :: ws₂ → a ∉ ws₂.map Prod.fst → s.kindAt a ≠ .device → ∀ k, t.byteAt k a = v

/-- Reset, in any state, sets what the spec states; memory, map and power control stay by the model's choice.
The two bases are D23; the registers R40 calls undefined get free values, of which nothing is stated (log 37). R372 says
the source is silent on the rest: that memory, the map and the power control stay is DESIGN CHOICE (log 37, log 32), the
fault D36 (log 31), that the run R78 speaks of begins anew log 23, and what other masters write before a read D14 (log
36). -/
def Obligations.ResetFetchesPcAndSpFromTheVectorTable : Prop :=
  ∀ (s : State) (kind : ResetKind), s.boundary.reset = some kind →
    let base : Word := match kind with
      | .powerOn => 0
      | .manual => 8
    (s.mapped .long base = true → s.mapped .long (base + 4) = true →
      ∃ t, step s = .next t ∧ t.pc = loadedValue s.begin.arbitrate 0 .long base ∧
        t.reg 15 = loadedValue s.begin.arbitrate.arbitrate 1 .long (base + 4) ∧
        t.vbr = 0 ∧ t.imask = 15 ∧ SrReservedClear t.sr ∧ t.delay = none ∧ t.mode = .run ∧
        t.mem = s.begin.arbitrate.arbitrate.mem ∧ t.storedAt = [] ∧ t.fetchedAt = [] ∧ t.map = s.map ∧
        t.platform = s.begin.platform ∧ t.inputs = s.inputs.tail) ∧
    (¬(s.mapped .long base = true ∧ s.mapped .long (base + 4) = true) → step s = .fault .resetVector)

/-- The state after reset has the values table 2.1 states.
What memory holds where nothing is listed is the model's choice (log 25), so both longwords are 0 there. -/
def Obligations.ResetStateHasTheStatedValues : Prop :=
  State.reset.imask = 15 ∧ SrReservedClear State.reset.sr ∧ State.reset.vbr = 0 ∧
  State.reset.pc = loadedValue State.reset 0 .long 0 ∧ State.reset.reg 15 = loadedValue State.reset 1 .long 4 ∧
  State.reset.delay = none ∧ State.reset.mode = .run

/-- The invariant holds of the state after reset.
The canonical forms are the model's own (log 25, log 23). -/
def Obligations.InvariantHoldsAtReset : Prop :=
  State.reset.Inv

/-- Every step keeps the invariant.
R29: no write of SR leaves a reserved bit set. The canonical forms are the model's own (log 25, log 23). -/
def Obligations.EveryStepKeepsTheInvariant : Prop :=
  ∀ s t : State, s.Inv → step s = .next t → t.Inv

/-- MemRead gives the bytes most significant first, or the address error when misaligned.
R66. What a device returns is the free value `Config.deviceByte`: the model's reading of the spec's oracle (log 28,
DEDUCED). That a device is read in any width is its choice (log 45). -/
def Obligations.MemReadGivesTheBigEndianValue : Prop :=
  ∀ (s : State) (k : Nat) (sz : Size) (a : Word),
    let misaligned := (sz = .word ∧ a.getLsbD 0 = true) ∨ (sz = .long ∧ (a.getLsbD 0 = true ∨ a.getLsbD 1 = true))
    (misaligned → memRead s k sz a = .addressError) ∧
    (¬misaligned → s.mapped sz a = true → memRead s k sz a = .ok (match sz with
      | .byte => (s.byteAt k a).setWidth 32
      | .word => (s.byteAt k a ++ s.byteAt k (a + 1)).setWidth 32
      | .long => s.byteAt k a ++ s.byteAt k (a + 1) ++ s.byteAt k (a + 2) ++ s.byteAt k (a + 3))) ∧
    (s.kindAt a ≠ .device → s.byteAt k a = Memory.lookup s.mem a.toNat) ∧
    (s.kindAt a = .device → s.byteAt k a = Config.deviceByte s.tick k a.toNat)

/-- MemWrite stores the low bytes most significant first and changes no other byte.
R67. A device takes its bytes itself (log 28), so what its addresses read as afterwards is not stated; that it takes
them in any width is the model's choice (log 45). That a stored byte may no longer be fetched is D16 (log 23). -/
def Obligations.MemWriteStoresTheBytesAndNoOther : Prop :=
  ∀ (s : State) (sz : Size) (a v : Word),
    let misaligned := (sz = .word ∧ a.getLsbD 0 = true) ∨ (sz = .long ∧ (a.getLsbD 0 = true ∨ a.getLsbD 1 = true))
    (misaligned → memWrite s sz a v = .addressError) ∧
    (¬misaligned → s.mapped sz a = true → s.writable sz a = true →
      ∃ t, memWrite s sz a v = .ok t ∧ Holds t sz a v ∧ Frame { stored := span sz a } s t ∧ t.pc = s.pc ∧
        t.delay = s.delay ∧ ∀ b ∈ span sz a, b.toNat ∈ t.storedAt)

/-- An aligned access to nothing, and an aligned store to ROM, is a fault.
U3: the model is stuck there; the two names are the model's (log 30). -/
def Obligations.AbsentAndRomAccessesFault : Prop :=
  ∀ (s : State) (k : Nat) (sz : Size) (a v : Word), aligned sz a = true →
    ((∃ b ∈ span sz a, s.kindAt b = .absent) →
      memRead s k sz a = .fault .absentAddress ∧ memWrite s sz a v = .fault .absentAddress) ∧
    ((∀ b ∈ span sz a, s.kindAt b ≠ .absent) → (∃ b ∈ span sz a, s.kindAt b = .rom) →
      memWrite s sz a v = .fault .romStore)

/-- After a longword store, loads of every width see its big-endian parts.
R62's mixed-width views (D3, log 3) and R75's latest store (D14). -/
def Obligations.StoredLongwordReadsBackInEveryWidth : Prop :=
  ∀ (s t : State) (k : Nat) (a v : Word), memWrite s .long a v = .ok t →
    (∀ b ∈ span .long a, s.kindAt b ≠ .device) →
    memRead t k .long a = .ok v ∧
    memRead t k .word a = .ok ((v.extractLsb' 16 16).setWidth 32) ∧
    memRead t k .word (a + 2) = .ok ((v.extractLsb' 0 16).setWidth 32) ∧
    memRead t k .byte a = .ok ((v.extractLsb' 24 8).setWidth 32) ∧
    memRead t k .byte (a + 1) = .ok ((v.extractLsb' 16 8).setWidth 32) ∧
    memRead t k .byte (a + 2) = .ok ((v.extractLsb' 8 8).setWidth 32) ∧
    memRead t k .byte (a + 3) = .ok ((v.extractLsb' 0 8).setWidth 32)

/-- MOV #imm, MOV, MOVT, SWAP.W and XTRCT write Rn as their rules say and nothing else.
R130, R133, R165, R167, R168. -/
def Obligations.RegisterMovesWriteOnlyTheirDestination : Prop :=
  ∀ (imm : BitVec 8) (m n : Reg) (s : State),
    Completes (codeNI 0b1110 n imm) (.movImm imm n) s { regs := [n] } (fun t => t.reg n = imm.signExtend 32) ∧
    Completes (codeNM 0b0110 n m 0b0011) (.mov m n) s { regs := [n] } (fun t => t.reg n = s.reg m) ∧
    Completes (codeN 0b0000 n 0b00101001) (.movt n) s { regs := [n] } (fun t => t.reg n = if s.t then 1 else 0) ∧
    Completes (codeNM 0b0110 n m 0b1001) (.swapW m n) s { regs := [n] }
      (fun t => t.reg n = (s.reg m).extractLsb' 0 16 ++ (s.reg m).extractLsb' 16 16) ∧
    Completes (codeNM 0b0010 n m 0b1101) (.xtrct m n) s { regs := [n] }
      (fun t => t.reg n = (s.reg m).extractLsb' 0 16 ++ (s.reg n).extractLsb' 16 16)

/-- SWAP.B exchanges the two low bytes; CMP/STR sets T when some byte is equal at the same position.
The upper half of SWAP.B and the reading of "equivalent byte" are the spec's decisions D39 and D38 (log 40). -/
def Obligations.ByteReadingsOfSwapBAndCmpStr : Prop :=
  ∀ (m n : Reg) (s : State),
    Completes (codeNM 0b0110 n m 0b1000) (.swapB m n) s { regs := [n] } (fun t =>
      (t.reg n).extractLsb' 16 16 = (s.reg m).extractLsb' 16 16 ∧ (t.reg n).extractLsb' 8 8 = (s.reg m).extractLsb' 0 8 ∧
        (t.reg n).extractLsb' 0 8 = (s.reg m).extractLsb' 8 8) ∧
    Completes (codeNM 0b0010 n m 0b1100) (.cmpStr m n) s { srBits := [bitT] } (fun t =>
      t.t = true ↔ ∃ j < 4, (s.reg n).extractLsb' (8 * j) 8 = (s.reg m).extractLsb' (8 * j) 8)

/-- MOV.W and MOV.L @(disp,PC) and MOVA use pc + 4 and have no meaning in a delay slot.
`PC_OFFSET` is D1 (log 1); the refusal is D22, U4 (log 20). What a misaligned load leaves is D5 (log 5), the stop U3
(log 30), what other masters write before the access D14 (log 36). -/
def Obligations.PcRelativeOperandsUsePcPlusFour : Prop :=
  ∀ (d : BitVec 8) (n : Reg) (s : State),
    let base : Word := (s.pc + 4) &&& 0xFFFFFFFC
    (s.delay = none →
      Loads (codeNI 0b1001 n d) (.movWPc d n) s .word (s.pc + 4 + d.setWidth 32 * 2) n ∧
      Loads (codeNI 0b1101 n d) (.movLPc d n) s .long (base + d.setWidth 32 * 4) n ∧
      aligned .long (base + d.setWidth 32 * 4) = true ∧
      Completes (codeI 0b11000111 d) (.mova d) s { regs := [0] } (fun t => t.reg 0 = base + d.setWidth 32 * 4)) ∧
    (∀ target, s.delay = some target →
      exec (.movWPc d n) s = .refused .pcRelativeInDelaySlot ∧
      exec (.movLPc d n) s = .refused .pcRelativeInDelaySlot ∧
      exec (.mova d) s = .refused .pcRelativeInDelaySlot)

/-- The loads @Rm, @(disp,Rm), @(R0,Rm), @(disp,GBR) of every size give the sign-extended datum.
R137 to R139, R149 to R151, R155 to R157, R161 to R163; the modes are R121 and R124 to R126. That a misaligned load
enters the address error from the unchanged state is D5 (log 5), which R65 leaves unspecified; the stop is U3 (log 30).
What other masters write before an access is D14 (log 36). -/
def Obligations.LoadsExtendTheDatumIntoTheirRegister : Prop :=
  ∀ (m n : Reg) (d : BitVec 4) (e : BitVec 8) (s : State),
    Loads (codeNM 0b0110 n m 0b0000) (.movBLoad m n) s .byte (s.reg m) n ∧
    Loads (codeNM 0b0110 n m 0b0001) (.movWLoad m n) s .word (s.reg m) n ∧
    Loads (codeNM 0b0110 n m 0b0010) (.movLLoad m n) s .long (s.reg m) n ∧
    Loads (codeRD 0b10000100 m d) (.movBLoadDisp d m) s .byte (s.reg m + d.setWidth 32) 0 ∧
    Loads (codeRD 0b10000101 m d) (.movWLoadDisp d m) s .word (s.reg m + d.setWidth 32 * 2) 0 ∧
    Loads (codeNM 0b0101 n m d) (.movLLoadDisp d m n) s .long (s.reg m + d.setWidth 32 * 4) n ∧
    Loads (codeNM 0b0000 n m 0b1100) (.movBLoadIdx m n) s .byte (s.reg 0 + s.reg m) n ∧
    Loads (codeNM 0b0000 n m 0b1101) (.movWLoadIdx m n) s .word (s.reg 0 + s.reg m) n ∧
    Loads (codeNM 0b0000 n m 0b1110) (.movLLoadIdx m n) s .long (s.reg 0 + s.reg m) n ∧
    Loads (codeI 0b11000100 e) (.movBLoadGbr e) s .byte (s.gbr + e.setWidth 32) 0 ∧
    Loads (codeI 0b11000101 e) (.movWLoadGbr e) s .word (s.gbr + e.setWidth 32 * 2) 0 ∧
    Loads (codeI 0b11000110 e) (.movLLoadGbr e) s .long (s.gbr + e.setWidth 32 * 4) 0

/-- The loads @Rm+ give the datum and the incremented address; with one register the datum stays.
One register for both is D20 (log 18); the base after a misaligned access is left open, U2 (log 5); the stop is U3 (log
30). What other masters write before an access is D14 (log 36). -/
def Obligations.PostIncrementLoadsKeepTheDatum : Prop :=
  ∀ (m n : Reg) (s : State),
    let loads (sz : Size) (w : Half) (i : Instr) :=
      LoadsInc w i s sz m { regs := [m, n] } (fun t => t.reg n = loadedValue s.arbitrate 0 sz (s.reg m) ∧
        (m ≠ n → t.reg m = s.reg m + sz.bytes))
    loads .byte (codeNM 0b0110 n m 0b0100) (.movBLoadInc m n) ∧
    loads .word (codeNM 0b0110 n m 0b0101) (.movWLoadInc m n) ∧
    loads .long (codeNM 0b0110 n m 0b0110) (.movLLoadInc m n)

/-- The stores @Rn, @(disp,Rn), @(R0,Rn), @(disp,GBR) of every size write their bytes only.
R134 to R136, R146 to R148, R152 to R154, R158 to R160; the modes are R121 and R124 to R126. That a misaligned store
stores nothing and enters the address error from the unchanged state is D5 (log 5), which R65 leaves unspecified; the
stops are U3 (log 30). What other masters write before an access is D14 (log 36). -/
def Obligations.StoresWriteTheirBytesAndNoOther : Prop :=
  ∀ (m n : Reg) (d : BitVec 4) (e : BitVec 8) (s : State),
    Stores (codeNM 0b0010 n m 0b0000) (.movBStore m n) s .byte (s.reg n) (s.reg m) ∧
    Stores (codeNM 0b0010 n m 0b0001) (.movWStore m n) s .word (s.reg n) (s.reg m) ∧
    Stores (codeNM 0b0010 n m 0b0010) (.movLStore m n) s .long (s.reg n) (s.reg m) ∧
    Stores (codeRD 0b10000000 n d) (.movBStoreDisp d n) s .byte (s.reg n + d.setWidth 32) (s.reg 0) ∧
    Stores (codeRD 0b10000001 n d) (.movWStoreDisp d n) s .word (s.reg n + d.setWidth 32 * 2) (s.reg 0) ∧
    Stores (codeNM 0b0001 n m d) (.movLStoreDisp m d n) s .long (s.reg n + d.setWidth 32 * 4) (s.reg m) ∧
    Stores (codeNM 0b0000 n m 0b0100) (.movBStoreIdx m n) s .byte (s.reg 0 + s.reg n) (s.reg m) ∧
    Stores (codeNM 0b0000 n m 0b0101) (.movWStoreIdx m n) s .word (s.reg 0 + s.reg n) (s.reg m) ∧
    Stores (codeNM 0b0000 n m 0b0110) (.movLStoreIdx m n) s .long (s.reg 0 + s.reg n) (s.reg m) ∧
    Stores (codeI 0b11000000 e) (.movBStoreGbr e) s .byte (s.gbr + e.setWidth 32) (s.reg 0) ∧
    Stores (codeI 0b11000001 e) (.movWStoreGbr e) s .word (s.gbr + e.setWidth 32 * 2) (s.reg 0) ∧
    Stores (codeI 0b11000010 e) (.movLStoreGbr e) s .long (s.gbr + e.setWidth 32 * 4) (s.reg 0)

/-- The stores @-Rn write Rm's old value at the decremented address, which Rn keeps.
One register for both is D20 (log 18); the base after a misaligned access is left open, U2 (log 5); the stops are U3
(log 30). What other masters write before an access is D14 (log 36). -/
def Obligations.PreDecrementStoresKeepTheDecrementedAddress : Prop :=
  ∀ (m n : Reg) (s : State),
    StoresDec (codeNM 0b0010 n m 0b0100) (.movBStoreDec m n) s .byte n (s.reg m) ∧
    StoresDec (codeNM 0b0010 n m 0b0101) (.movWStoreDec m n) s .word n (s.reg m) ∧
    StoresDec (codeNM 0b0010 n m 0b0110) (.movLStoreDec m n) s .long n (s.reg m)

/-- ADD, ADD #imm, SUB, NEG and the four extensions write Rn modulo 2^32 and leave T.
R170, R171, R189 to R192, R198, R200. -/
def Obligations.AddSubNegAndExtensionsWriteOnlyTheirDestination : Prop :=
  ∀ (imm : BitVec 8) (m n : Reg) (s : State),
    Completes (codeNM 0b0011 n m 0b1100) (.addR m n) s { regs := [n] } (fun t => t.reg n = s.reg n + s.reg m) ∧
    Completes (codeNI 0b0111 n imm) (.addImm imm n) s { regs := [n] } (fun t => t.reg n = s.reg n + imm.signExtend 32) ∧
    Completes (codeNM 0b0011 n m 0b1000) (.subR m n) s { regs := [n] } (fun t => t.reg n = s.reg n - s.reg m) ∧
    Completes (codeNM 0b0110 n m 0b1011) (.neg m n) s { regs := [n] } (fun t => t.reg n = -s.reg m) ∧
    Completes (codeNM 0b0110 n m 0b1110) (.extsB m n) s { regs := [n] }
      (fun t => t.reg n = ((s.reg m).extractLsb' 0 8).signExtend 32) ∧
    Completes (codeNM 0b0110 n m 0b1111) (.extsW m n) s { regs := [n] }
      (fun t => t.reg n = ((s.reg m).extractLsb' 0 16).signExtend 32) ∧
    Completes (codeNM 0b0110 n m 0b1100) (.extuB m n) s { regs := [n] }
      (fun t => t.reg n = ((s.reg m).extractLsb' 0 8).setWidth 32) ∧
    Completes (codeNM 0b0110 n m 0b1101) (.extuW m n) s { regs := [n] }
      (fun t => t.reg n = ((s.reg m).extractLsb' 0 16).setWidth 32)

/-- ADDC, SUBC and NEGC: the result and the carry or borrow in T give the exact integer result.
R172, R199, R201: since Rn' lies in 0 to 2^32 - 1, the equation fixes both Rn' and T'. What carry and borrow mean is the
spec's own decision D37 (log 40, DESIGN CHOICE). -/
def Obligations.CarryAndBorrowCompleteTheExactResult : Prop :=
  ∀ (m n : Reg) (s : State),
    Completes (codeNM 0b0011 n m 0b1110) (.addc m n) s { regs := [n], srBits := [bitT] } (fun t =>
      (t.reg n).toNat + 2 ^ 32 * t.t.toNat = (s.reg n).toNat + (s.reg m).toNat + s.t.toNat) ∧
    Completes (codeNM 0b0011 n m 0b1010) (.subc m n) s { regs := [n], srBits := [bitT] } (fun t =>
      ((t.reg n).toNat : Int) - 2 ^ 32 * t.t.toNat = (s.reg n).toNat - (s.reg m).toNat - s.t.toNat) ∧
    Completes (codeNM 0b0110 n m 0b1010) (.negc m n) s { regs := [n], srBits := [bitT] } (fun t =>
      ((t.reg n).toNat : Int) - 2 ^ 32 * t.t.toNat = 0 - (s.reg m).toNat - s.t.toNat)

/-- ADDV and SUBV wrap, and T says whether the signed result is out of range.
R173, R202; their bit formulas are equivalent to the range ("1 exactly when"). What overflow, and underflow in either
direction, mean is the spec's own decision D37 (log 40, DESIGN CHOICE). -/
def Obligations.OverflowFlagMeansOutOfSignedRange : Prop :=
  ∀ (m n : Reg) (s : State),
    Completes (codeNM 0b0011 n m 0b1111) (.addv m n) s { regs := [n], srBits := [bitT] } (fun t =>
      t.reg n = s.reg n + s.reg m ∧
      (t.t = true ↔ (s.reg n).toInt + (s.reg m).toInt < -2 ^ 31 ∨ 2 ^ 31 - 1 < (s.reg n).toInt + (s.reg m).toInt)) ∧
    Completes (codeNM 0b0011 n m 0b1011) (.subv m n) s { regs := [n], srBits := [bitT] } (fun t =>
      t.reg n = s.reg n - s.reg m ∧
      (t.t = true ↔ (s.reg n).toInt - (s.reg m).toInt < -2 ^ 31 ∨ 2 ^ 31 - 1 < (s.reg n).toInt - (s.reg m).toInt))

/-- Each comparison sets T exactly when its condition holds of the integers, and nothing else.
R174 to R181. -/
def Obligations.ComparisonsWriteOnlyTheTBit : Prop :=
  ∀ (imm : BitVec 8) (m n : Reg) (s : State),
    Completes (codeI 0b10001000 imm) (.cmpEqImm imm) s { srBits := [bitT] } (fun t => t.t = true ↔ s.reg 0 = imm.signExtend 32) ∧
    Completes (codeNM 0b0011 n m 0b0000) (.cmpEq m n) s { srBits := [bitT] } (fun t => t.t = true ↔ s.reg n = s.reg m) ∧
    Completes (codeNM 0b0011 n m 0b0010) (.cmpHs m n) s { srBits := [bitT] } (fun t => t.t = true ↔ (s.reg n).toNat ≥ (s.reg m).toNat) ∧
    Completes (codeNM 0b0011 n m 0b0011) (.cmpGe m n) s { srBits := [bitT] } (fun t => t.t = true ↔ (s.reg n).toInt ≥ (s.reg m).toInt) ∧
    Completes (codeNM 0b0011 n m 0b0110) (.cmpHi m n) s { srBits := [bitT] } (fun t => t.t = true ↔ (s.reg n).toNat > (s.reg m).toNat) ∧
    Completes (codeNM 0b0011 n m 0b0111) (.cmpGt m n) s { srBits := [bitT] } (fun t => t.t = true ↔ (s.reg n).toInt > (s.reg m).toInt) ∧
    Completes (codeN 0b0100 n 0b00010001) (.cmpPz n) s { srBits := [bitT] } (fun t => t.t = true ↔ (s.reg n).toInt ≥ 0) ∧
    Completes (codeN 0b0100 n 0b00010101) (.cmpPl n) s { srBits := [bitT] } (fun t => t.t = true ↔ (s.reg n).toInt > 0)

/-- DT, DIV0S and DIV0U write what their rules say and nothing else.
R184, R185, R188. -/
def Obligations.DecrementAndDivisionSetUp : Prop :=
  ∀ (m n : Reg) (s : State),
    Completes (codeN 0b0100 n 0b00010000) (.dt n) s { regs := [n], srBits := [bitT] } (fun t =>
      t.reg n = s.reg n - 1 ∧ (t.t = true ↔ s.reg n = 1)) ∧
    Completes (codeNM 0b0010 n m 0b0111) (.div0s m n) s { srBits := [bitT, bitQ, bitM] } (fun t =>
      t.q = (s.reg n).getLsbD 31 ∧ t.m = (s.reg m).getLsbD 31 ∧ t.t = (t.m ^^ t.q)) ∧
    Completes 0x0019 .div0u s { srBits := [bitT, bitQ, bitM] } (fun t => t.m = false ∧ t.q = false ∧ t.t = false)

/-- DIV1 computes the step function DIV1_STEP of R183.
`DIV1_STEP` is D19 (log 17). -/
def Obligations.Div1IsTheStepOfTheRule : Prop :=
  ∀ (m n : Reg) (s : State),
    let a : Word := s.reg n * 2 + (if s.t then 1 else 0)
    let b : Word := if m = n then a else s.reg m
    Completes (codeNM 0b0011 n m 0b0100) (.div1 m n) s { regs := [n], srBits := [bitT, bitQ] } (fun t =>
      (s.q = s.m → t.reg n = a - b ∧ t.q = ((s.reg n).getLsbD 31 ^^ s.m ^^ decide (a.toNat < b.toNat))) ∧
      (s.q ≠ s.m → t.reg n = a + b ∧ t.q = ((s.reg n).getLsbD 31 ^^ s.m ^^ decide (2 ^ 32 ≤ a.toNat + b.toNat))) ∧
      (t.t = true ↔ t.q = s.m) ∧ t.m = s.m)

/-- Unsigned division: one DIV1 takes the partial remainder to 2V + T minus or plus the divisor y, within -y to y - 1.
What makes DIV0U and repeated DIV1 a division (R203): it would fail for a wrong carry, Q or T. It rests on `DIV1_STEP`,
D19 (log 17). -/
def Obligations.Div1KeepsThePartialRemainderInRange : Prop :=
  ∀ (m n : Reg) (s : State), m ≠ n → s.m = false →
    let y : Int := (s.reg m).toNat
    let v (u : State) : Int := (u.reg n).toNat - 2 ^ 32 * u.q.toNat
    v s < y → -y ≤ v s →
    ∃ t, exec (.div1 m n) s = .next t ∧
      v t = 2 * v s + s.t.toNat + (if s.q then y else -y) ∧ -y ≤ v t ∧ v t < y ∧ (t.t = true ↔ 0 ≤ v t)

/-- DMULS.L and DMULU.L leave the exact 64-bit product in MACH:MACL.
R186, R187. While MULT is stopped they may not be executed (R384): see RefusalsOfExecAreTheSpecsThree. The note that a
multiplication has executed is R38 (a)'s safe reading, the model's (log 34, DEDUCED). -/
def Obligations.DoubleLengthProductsAreExact : Prop :=
  ∀ (m n : Reg) (s : State), s.platform.stopMult = false →
    Completes (codeNM 0b0011 n m 0b1101) (.dmulsL m n) s { mach := true, macl := true, inFlight := true } (fun t =>
      (t.mach ++ t.macl).toInt = (s.reg n).toInt * (s.reg m).toInt ∧ t.multSinceMach = true ∧ t.multSinceMacl = true) ∧
    Completes (codeNM 0b0011 n m 0b0101) (.dmuluL m n) s { mach := true, macl := true, inFlight := true } (fun t =>
      (t.mach ++ t.macl).toNat = (s.reg n).toNat * (s.reg m).toNat ∧ t.multSinceMach = true ∧ t.multSinceMacl = true)

/-- MUL.L, MULS.W and MULU.W leave their 32-bit product in MACL and keep MACH.
That MACH keeps its value is D17 (log 15); the note that a multiplication has executed is R38 (a)'s safe reading (log
34). -/
def Obligations.SingleLengthProductsWriteMaclOnly : Prop :=
  ∀ (m n : Reg) (s : State), s.platform.stopMult = false →
    let noted (t : State) := t.multSinceMach = true ∧ t.multSinceMacl = true
    Completes (codeNM 0b0000 n m 0b0111) (.mulL m n) s { macl := true, inFlight := true } (fun t =>
      t.macl.toNat = (s.reg n).toNat * (s.reg m).toNat % 2 ^ 32 ∧ noted t) ∧
    Completes (codeNM 0b0010 n m 0b1111) (.mulsW m n) s { macl := true, inFlight := true } (fun t =>
      t.macl.toInt = ((s.reg n).extractLsb' 0 16).toInt * ((s.reg m).extractLsb' 0 16).toInt ∧ noted t) ∧
    Completes (codeNM 0b0010 n m 0b1110) (.muluW m n) s { macl := true, inFlight := true } (fun t =>
      t.macl.toNat = ((s.reg n).toNat % 2 ^ 16) * ((s.reg m).toNat % 2 ^ 16) ∧ noted t)

/-- With S = 0, MAC.L and MAC.W add the exact signed product to MACH:MACL modulo 2^64.
The order of the reads and the case m = n are D20 (log 18); the note that a multiplication has executed is R38 (a)'s
safe reading (log 34). What other masters write before an access is D14 (log 36). -/
def Obligations.MacAccumulatesExactlyWithoutSaturation : Prop :=
  ∀ (m n : Reg) (s : State), s.platform.stopMult = false →
    let a₂ (sz : Size) : Word := if m = n then s.reg n + sz.bytes else s.reg m
    let advanced (sz : Size) (t : State) :=
      if m = n then t.reg n = s.reg n + 2 * sz.bytes else t.reg n = s.reg n + sz.bytes ∧ t.reg m = s.reg m + sz.bytes
    let noted (t : State) := t.multSinceMach = true ∧ t.multSinceMacl = true
    let c : Writes := { regs := [m, n], mach := true, macl := true, inFlight := true, accesses := 2 }
    let readable (sz : Size) := aligned sz (s.reg n) = true ∧ s.mapped sz (s.reg n) = true ∧
      aligned sz (a₂ sz) = true ∧ s.mapped sz (a₂ sz) = true
    let p (sz : Size) : Int :=
      (loadedValue s.arbitrate 0 sz (s.reg n)).toInt * (loadedValue s.arbitrate.arbitrate 1 sz (a₂ sz)).toInt
    s.sBit = false →
    (readable .long → Completes (codeNM 0b0000 n m 0b1111) (.macL m n) s c (fun t =>
      t.mach ++ t.macl = (s.mach ++ s.macl) + BitVec.ofInt 64 (p .long) ∧ advanced .long t ∧ noted t)) ∧
    (readable .word → Completes (codeNM 0b0100 n m 0b1111) (.macW m n) s c (fun t =>
      t.mach ++ t.macl = (s.mach ++ s.macl) + BitVec.ofInt 64 (p .word) ∧ advanced .word t ∧ noted t))

/-- With S = 1, MAC.L limits to 48 bits and MAC.W to 32 bits with MACH bit 0 set on overflow.
The S bit is not in the source; `MAC_SATURATE` is D18, U6 (log 16). The order of the reads and the case m = n are D20
(log 18); the note that a multiplication has executed is R38 (a)'s safe reading (log 34). What other masters write
before an access is D14 (log 36). -/
def Obligations.MacSaturatesWithTheSBit : Prop :=
  ∀ (m n : Reg) (s : State), s.platform.stopMult = false →
    let a₂ (sz : Size) : Word := if m = n then s.reg n + sz.bytes else s.reg m
    let advanced (sz : Size) (t : State) :=
      if m = n then t.reg n = s.reg n + 2 * sz.bytes else t.reg n = s.reg n + sz.bytes ∧ t.reg m = s.reg m + sz.bytes
    let noted (t : State) := t.multSinceMach = true ∧ t.multSinceMacl = true
    let c : Writes := { regs := [m, n], mach := true, macl := true, inFlight := true, accesses := 2 }
    let readable (sz : Size) := aligned sz (s.reg n) = true ∧ s.mapped sz (s.reg n) = true ∧
      aligned sz (a₂ sz) = true ∧ s.mapped sz (a₂ sz) = true
    let p (sz : Size) : Int :=
      (loadedValue s.arbitrate 0 sz (s.reg n)).toInt * (loadedValue s.arbitrate.arbitrate 1 sz (a₂ sz)).toInt
    s.sBit = true →
    (readable .long → Completes (codeNM 0b0000 n m 0b1111) (.macL m n) s c (fun t =>
      (t.mach ++ t.macl).toInt = max (-2 ^ 47) (min (2 ^ 47 - 1) ((s.mach ++ s.macl).toInt + p .long)) ∧
      advanced .long t ∧ noted t)) ∧
    (readable .word → Completes (codeNM 0b0100 n m 0b1111) (.macW m n) s c (fun t =>
      let sum : Int := s.macl.toInt + p .word
      (if sum < -2 ^ 31 then t.macl = 0x80000000 ∧ t.mach = s.mach ||| 1
        else if 2 ^ 31 - 1 < sum then t.macl = 0x7FFFFFFF ∧ t.mach = s.mach ||| 1
        else t.macl.toInt = sum ∧ t.mach = s.mach) ∧ advanced .word t ∧ noted t))

/-- A misaligned operand of MAC.L, MAC.W or RTE takes the address error with nothing else done; an absent one stops.
What the base registers hold then is left open, U2 (log 5). That @Rn is read first and the address of the second operand
when m = n are D20 (log 18); the stops are U3 (log 30). What other masters write before an access is D14 (log 36). That
such a MAC leaves the note of a multiplication as it was is the model's choice (log 34). -/
def Obligations.MisalignedMacAndRteTakeTheAddressError : Prop :=
  ∀ (m n : Reg) (s : State),
    let a₂ (sz : Size) : Word := if m = n then s.reg n + sz.bytes else s.reg m
    let bases (sz : Size) (u : State) :=
      if m = n then u.reg n = s.reg n ∨ u.reg n = s.reg n + sz.bytes ∨ u.reg n = s.reg n + 2 * sz.bytes
      else (u.reg n = s.reg n ∨ u.reg n = s.reg n + sz.bytes) ∧ (u.reg m = s.reg m ∨ u.reg m = s.reg m + sz.bytes)
    let raises (i : Instr) (sz : Size) (accesses : Nat) :=
      ∃ u, LeftByAddressError [m, n] [] accesses s u ∧ bases sz u ∧ exec i s = addressErrorEntry u
    let rule (i : Instr) (sz : Size) :=
      (aligned sz (s.reg n) = false → raises i sz 0) ∧
      StopsWhereAbsent i s sz (s.reg n) ∧
      (aligned sz (s.reg n) = true → s.mapped sz (s.reg n) = true →
        (aligned sz (a₂ sz) = false → raises i sz 1) ∧ StopsWhereAbsent i s sz (a₂ sz))
    (s.platform.stopMult = false → rule (.macL m n) .long ∧ rule (.macW m n) .word) ∧
    (s.delay = none →
      (aligned .long (s.reg 15) = false →
        ∃ u, (u = s ∨ u = s.setReg 15 (s.reg 15 + 8)) ∧ exec .rte s = addressErrorEntry u) ∧
      StopsWhereAbsent .rte s .long (s.reg 15) ∧
      (s.mapped .long (s.reg 15) = true → StopsWhereAbsent .rte s .long (s.reg 15 + 4)))

/-- AND, OR, XOR, NOT and the #imm,R0 forms write their register and leave T.
R210, R211, R213 to R215, R221, R222. -/
def Obligations.RegisterLogicWritesOnlyItsDestination : Prop :=
  ∀ (imm : BitVec 8) (m n : Reg) (s : State),
    Completes (codeNM 0b0010 n m 0b1001) (.andR m n) s { regs := [n] } (fun t => t.reg n = s.reg n &&& s.reg m) ∧
    Completes (codeI 0b11001001 imm) (.andImm imm) s { regs := [0] } (fun t => t.reg 0 = s.reg 0 &&& imm.setWidth 32) ∧
    Completes (codeNM 0b0110 n m 0b0111) (.notR m n) s { regs := [n] } (fun t => t.reg n = ~~~s.reg m) ∧
    Completes (codeNM 0b0010 n m 0b1011) (.orR m n) s { regs := [n] } (fun t => t.reg n = s.reg n ||| s.reg m) ∧
    Completes (codeI 0b11001011 imm) (.orImm imm) s { regs := [0] } (fun t => t.reg 0 = s.reg 0 ||| imm.setWidth 32) ∧
    Completes (codeNM 0b0010 n m 0b1010) (.xorR m n) s { regs := [n] } (fun t => t.reg n = s.reg n ^^^ s.reg m) ∧
    Completes (codeI 0b11001010 imm) (.xorImm imm) s { regs := [0] } (fun t => t.reg 0 = s.reg 0 ^^^ imm.setWidth 32)

/-- AND.B, OR.B and XOR.B combine the byte at GBR + R0 with the immediate and change nothing else.
R212, R216, R223. That another master may write before either of the two accesses is D14 and R73's decision (log 36);
the stops are U3 (log 30). -/
def Obligations.MemoryLogicModifiesOneByte : Prop :=
  ∀ (imm : BitVec 8) (s : State),
    let a : Word := s.gbr + s.reg 0
    ModifiesByte (codeI 0b11001101 imm) (.andB imm) s a (· &&& imm) [] 2 (fun _ => True) ∧
    ModifiesByte (codeI 0b11001111 imm) (.orB imm) s a (· ||| imm) [] 2 (fun _ => True) ∧
    ModifiesByte (codeI 0b11001110 imm) (.xorB imm) s a (· ^^^ imm) [] 2 (fun _ => True)

/-- TST in its three forms sets T exactly when the conjunction is zero and writes nothing else.
R218 to R220. What other masters write before TST.B's read is D14 (log 36), the stop U3 (log 30). -/
def Obligations.TestsWriteOnlyTheTBit : Prop :=
  ∀ (imm : BitVec 8) (m n : Reg) (s : State),
    let a : Word := s.gbr + s.reg 0
    Completes (codeNM 0b0010 n m 0b1000) (.tstR m n) s { srBits := [bitT] }
      (fun t => t.t = true ↔ s.reg n &&& s.reg m = 0) ∧
    Completes (codeI 0b11001000 imm) (.tstImm imm) s { srBits := [bitT] }
      (fun t => t.t = true ↔ s.reg 0 &&& imm.setWidth 32 = 0) ∧
    (s.mapped .byte a = true → Completes (codeI 0b11001100 imm) (.tstB imm) s { srBits := [bitT], accesses := 1 }
      (fun t => t.t = true ↔ s.arbitrate.byteAt 0 a &&& imm = 0)) ∧
    StopsWhereAbsent (.tstB imm) s .byte a

/-- TAS.B sets bit 7 of the byte at Rn in any case and T exactly when the byte was zero.
That the two accesses are indivisible is D15 (log 43), that others may write before the first D14 (log 36), the stops U3
(log 30); the rest is R217's own. -/
def Obligations.TasSetsBitSevenAndTestsForZero : Prop :=
  ∀ (n : Reg) (s : State),
    ModifiesByte (codeN 0b0100 n 0b00011011) (.tasB n) s (s.reg n) (· ||| 0x80) [bitT] 1
      (fun t => t.t = true ↔ s.arbitrate.byteAt 0 (s.reg n) = 0)

/-- The eight one-bit shifts and rotates move Rn by one place and put the bit shifted out into T.
R230 to R237. `/` on integers rounds down. -/
def Obligations.OneBitShiftsPutTheBitShiftedOutIntoT : Prop :=
  ∀ (n : Reg) (s : State),
    let x := s.reg n
    let shifts (last : BitVec 8) (i : Instr) (v : Word) (out : Bool) :=
      Completes (codeN 0b0100 n last) i s { regs := [n], srBits := [bitT] } (fun t => t.reg n = v ∧ t.t = out)
    shifts 0b00000100 (.rotl n) (x.rotateLeft 1) (x.getLsbD 31) ∧
    shifts 0b00000101 (.rotr n) (x.rotateRight 1) (x.getLsbD 0) ∧
    shifts 0b00100100 (.rotcl n) (x.extractLsb' 0 31 ++ BitVec.ofBool s.t) (x.getLsbD 31) ∧
    shifts 0b00100101 (.rotcr n) (BitVec.ofBool s.t ++ x.extractLsb' 1 31) (x.getLsbD 0) ∧
    shifts 0b00100000 (.shal n) (x.extractLsb' 0 31 ++ 0#1) (x.getLsbD 31) ∧
    shifts 0b00100001 (.shar n) (BitVec.ofInt 32 (x.toInt / 2)) (x.getLsbD 0) ∧
    shifts 0b00000000 (.shll n) (x.extractLsb' 0 31 ++ 0#1) (x.getLsbD 31) ∧
    shifts 0b00000001 (.shlr n) (0#1 ++ x.extractLsb' 1 31) (x.getLsbD 0)

/-- SHLL2/8/16 and SHLR2/8/16 multiply and divide Rn by their power of two and leave T.
R238 to R243. -/
def Obligations.MultiBitShiftsAreLogicalAndLeaveT : Prop :=
  ∀ (n : Reg) (s : State),
    let shifts (last : BitVec 8) (i : Instr) (v : Nat) :=
      Completes (codeN 0b0100 n last) i s { regs := [n] } (fun t => (t.reg n).toNat = v)
    shifts 0b00001000 (.shll2 n) ((s.reg n).toNat * 2 ^ 2 % 2 ^ 32) ∧
    shifts 0b00001001 (.shlr2 n) ((s.reg n).toNat / 2 ^ 2) ∧
    shifts 0b00011000 (.shll8 n) ((s.reg n).toNat * 2 ^ 8 % 2 ^ 32) ∧
    shifts 0b00011001 (.shlr8 n) ((s.reg n).toNat / 2 ^ 8) ∧
    shifts 0b00101000 (.shll16 n) ((s.reg n).toNat * 2 ^ 16 % 2 ^ 32) ∧
    shifts 0b00101001 (.shlr16 n) ((s.reg n).toNat / 2 ^ 16)

/-- BF and BT go to pc + 4 + 2 disp at once when taken, else to the next word.
`PCv = pc + 4` is D1 (log 1). -/
def Obligations.PlainConditionalBranchesGoAtOnce : Prop :=
  ∀ (d : BitVec 8) (s : State), s.delay = none →
    let target : Word := s.pc + 4 + BitVec.ofInt 32 (2 * d.toInt)
    BranchesTo (codeI 0b10001011 d) (.bf d) s (if s.t then s.pc + 2 else target) none {} (fun _ => True) ∧
    BranchesTo (codeI 0b10001001 d) (.bt d) s (if s.t then target else s.pc + 2) none {} (fun _ => True)

/-- BF/S and BT/S arm the delayed branch when taken, and are a no-operation when not.
`PCv = pc + 4` is D1 (log 1), the refusal D35, U5 (log 21). Which word "follows" is the model's reading (log 21). -/
def Obligations.DelayedConditionalBranches : Prop :=
  ∀ (d : BitVec 8) (s : State), s.delay = none →
    let target : Word := s.pc + 4 + BitVec.ofInt 32 (2 * d.toInt)
    let rule (w : Half) (i : Instr) (taken : Bool) :=
      (taken = true → BranchesTo w i s (s.pc + 2) (some target) {} (fun _ => True)) ∧
      (taken = false → (∀ j, FollowedBy s j → j.isBranchClass = false) →
        BranchesTo w i s (s.pc + 2) none {} (fun _ => True)) ∧
      (taken = false →
        ∀ j, FollowedBy s j → j.isBranchClass = true → exec i s = .refused .branchAfterUntakenDelayedBranch)
    rule (codeI 0b10001111 d) (.bfS d) (!s.t) ∧ rule (codeI 0b10001101 d) (.btS d) s.t

/-- BRA, BRAF, BSR, BSRF, JMP, JSR and RTS arm their target, with PR set by the calls.
`PCv = pc + 4` is D1 (log 1); that all inputs are read before the slot is D21 (log 19). -/
def Obligations.UnconditionalDelayedBranches : Prop :=
  ∀ (d : BitVec 12) (m : Reg) (s : State), s.delay = none →
    let target : Word := s.pc + 4 + BitVec.ofInt 32 (2 * d.toInt)
    let jumps (w : Half) (i : Instr) (dest : Word) := BranchesTo w i s (s.pc + 2) (some dest) {} (fun _ => True)
    let calls (w : Half) (i : Instr) (dest : Word) :=
      BranchesTo w i s (s.pc + 2) (some dest) { pr := true } (fun t => t.pr = s.pc + 4)
    jumps (codeD12 0b1010 d) (.bra d) target ∧
    jumps (codeN 0b0000 m 0b00100011) (.braf m) (s.pc + 4 + s.reg m) ∧
    calls (codeD12 0b1011 d) (.bsr d) target ∧
    calls (codeN 0b0000 m 0b00000011) (.bsrf m) (s.pc + 4 + s.reg m) ∧
    jumps (codeN 0b0100 m 0b00101011) (.jmp m) (s.reg m) ∧
    calls (codeN 0b0100 m 0b00001011) (.jsr m) (s.reg m) ∧
    jumps 0x000B .rts s.pr

/-- CLRT, SETT, NOP, CLRMAC, LDC Rm,GBR/VBR and LDS Rm,MACH/MACL/PR write what they name.
R280, R281, R283, R284, R288 to R290, R294, R296. The clauses on the note of a multiplication are R38 (a)'s safe
reading, the model's (log 34, DEDUCED). -/
def Obligations.ClearsSetsAndRegisterLoads : Prop :=
  ∀ (m : Reg) (s : State),
    Completes 0x0008 .clrt s { srBits := [bitT] } (fun t => t.t = false) ∧
    Completes 0x0018 .sett s { srBits := [bitT] } (fun t => t.t = true) ∧
    Completes 0x0009 .nop s {} (fun _ => True) ∧
    Completes (codeN 0b0100 m 0b00011110) (.ldcGbr m) s { gbr := true } (fun t => t.gbr = s.reg m) ∧
    Completes (codeN 0b0100 m 0b00101110) (.ldcVbr m) s { vbr := true } (fun t => t.vbr = s.reg m) ∧
    Completes (codeN 0b0100 m 0b00101010) (.ldsPr m) s { pr := true } (fun t => t.pr = s.reg m) ∧
    (s.platform.stopMult = false →
      Completes 0x0028 .clrmac s { mach := true, macl := true, inFlight := true } (fun t =>
        t.mach = 0 ∧ t.macl = 0 ∧ t.multSinceMach = false ∧ t.multSinceMacl = false) ∧
      Completes (codeN 0b0100 m 0b00001010) (.ldsMach m) s { mach := true, inFlight := true } (fun t =>
        t.mach = s.reg m ∧ t.multSinceMach = false ∧ t.multSinceMacl = s.multSinceMacl) ∧
      Completes (codeN 0b0100 m 0b00011010) (.ldsMacl m) s { macl := true, inFlight := true } (fun t =>
        t.macl = s.reg m ∧ t.multSinceMacl = false ∧ t.multSinceMach = s.multSinceMach))

/-- LDC.L @Rm+,GBR/VBR and LDS.L @Rm+,MACH/MACL/PR load the longword and add 4 to Rm.
R286, R287, R291 to R293. The note of a multiplication is R38 (a)'s safe reading, the model's (log 34, DEDUCED); the
base after a misaligned access is left open, U2, and that nothing else has changed then is D5 (log 5); the stop is U3
(log 30). What other masters write before the access is D14 (log 36). -/
def Obligations.PostIncrementLoadsOfSystemRegisters : Prop :=
  ∀ (m : Reg) (s : State),
    let x : Word := loadedValue s.arbitrate 0 .long (s.reg m)
    let loads (last : BitVec 8) (i : Instr) (c : Writes) (result : State → Prop) :=
      LoadsInc (codeN 0b0100 m last) i s .long m c (fun t => t.reg m = s.reg m + 4 ∧ result t)
    loads 0b00010111 (.ldcLGbr m) { regs := [m], gbr := true } (fun t => t.gbr = x) ∧
    loads 0b00100111 (.ldcLVbr m) { regs := [m], vbr := true } (fun t => t.vbr = x) ∧
    loads 0b00100110 (.ldsLPr m) { regs := [m], pr := true } (fun t => t.pr = x) ∧
    (s.platform.stopMult = false →
      loads 0b00000110 (.ldsLMach m) { regs := [m], mach := true, inFlight := true } (fun t =>
        t.mach = x ∧ t.multSinceMach = false ∧ t.multSinceMacl = s.multSinceMacl) ∧
      loads 0b00010110 (.ldsLMacl m) { regs := [m], macl := true, inFlight := true } (fun t =>
        t.macl = x ∧ t.multSinceMacl = false ∧ t.multSinceMach = s.multSinceMach))

/-- STC GBR/VBR,Rn and STS MACH/MACL/PR,Rn copy the named register to Rn.
R299, R300, R304 to R306. -/
def Obligations.RegisterStoresOfSystemRegisters : Prop :=
  ∀ (n : Reg) (s : State),
    let copies (last : BitVec 8) (i : Instr) (v : Word) :=
      Completes (codeN 0b0000 n last) i s { regs := [n] } (fun t => t.reg n = v)
    copies 0b00010010 (.stcGbr n) s.gbr ∧ copies 0b00100010 (.stcVbr n) s.vbr ∧ copies 0b00101010 (.stsPr n) s.pr ∧
    (s.platform.stopMult = false → copies 0b00001010 (.stsMach n) s.mach ∧ copies 0b00011010 (.stsMacl n) s.macl)

/-- STC.L GBR/VBR,@-Rn and STS.L MACH/MACL/PR,@-Rn push the named register.
R302, R303, R307 to R309. The base after a misaligned access is left open, U2, and that nothing is stored then is D5
(log 5); the stops are U3 (log 30). What other masters write before an access is D14 (log 36). -/
def Obligations.PreDecrementStoresOfSystemRegisters : Prop :=
  ∀ (n : Reg) (s : State),
    let pushes (last : BitVec 8) (i : Instr) (v : Word) := StoresDec (codeN 0b0100 n last) i s .long n v
    pushes 0b00010011 (.stcLGbr n) s.gbr ∧ pushes 0b00100011 (.stcLVbr n) s.vbr ∧ pushes 0b00100010 (.stsLPr n) s.pr ∧
    (s.platform.stopMult = false → pushes 0b00000010 (.stsLMach n) s.mach ∧ pushes 0b00010010 (.stsLMacl n) s.macl)

/-- LDC, LDC.L, STC and STC.L with SR move its defined bits; reserved bits are dropped and read 0.
The mask and the reserved bits are D2 and D40 (log 2); what a misaligned LDC.L leaves is open, U2 (log 6); what a
misaligned STC.L leaves is U2 too (log 5), the stops are U3 (log 30). What other masters write before an access is D14
(log 36). -/
def Obligations.MovesOfTheStatusRegister : Prop :=
  ∀ (m n : Reg) (s : State),
    Completes (codeN 0b0100 m 0b00001110) (.ldcSr m) s { srBits := allSrBits } (fun t => t.sr = s.reg m &&& 0x3F3) ∧
    Completes (codeN 0b0000 n 0b00000010) (.stcSr n) s { regs := [n] } (fun t => t.reg n = s.sr &&& 0x3F3) ∧
    (aligned .long (s.reg m) = true → s.mapped .long (s.reg m) = true →
      Completes (codeN 0b0100 m 0b00000111) (.ldcLSr m) s { regs := [m], srBits := allSrBits, accesses := 1 } (fun t =>
        t.sr = loadedValue s.arbitrate 0 .long (s.reg m) &&& 0x3F3 ∧ t.reg m = s.reg m + 4)) ∧
    StopsWhereAbsent (.ldcLSr m) s .long (s.reg m) ∧
    (aligned .long (s.reg m) = false → ∃ u, LeftByAddressError [m] allSrBits 0 s u ∧ SrReservedClear u.sr ∧
      (u.reg m = s.reg m ∨ u.reg m = s.reg m + 4) ∧ exec (.ldcLSr m) s = addressErrorEntry u) ∧
    StoresDec (codeN 0b0100 n 0b00000011) (.stcLSr n) s .long n (s.sr &&& 0x3F3)

/-- RTE pops PC then SR, adds 8 to R15 and arms the delayed branch to the popped PC.
The order of the pops is D9, SR before the slot D24 (log 10, log 41), the mask D2 (log 2). What other masters write
before a read is D14 (log 36). -/
def Obligations.RteRestoresPcAndSrFromTheStack : Prop :=
  ∀ s : State, s.delay = none → aligned .long (s.reg 15) = true → s.mapped .long (s.reg 15) = true →
    s.mapped .long (s.reg 15 + 4) = true →
    BranchesTo 0x002B .rte s (s.pc + 2) (some (loadedValue s.arbitrate 0 .long (s.reg 15)))
      { regs := [15], srBits := allSrBits, accesses := 2 } (fun t =>
        t.reg 15 = s.reg 15 + 8 ∧ t.sr = loadedValue s.arbitrate.arbitrate 1 .long (s.reg 15 + 4) &&& 0x3F3)

/-- SLEEP advances pc and enters sleep with SBY = 0, standby with SBY = 1.
That pc has advanced is D25 (log 22); what standby loses is left open, U9, U10, and clearing the DMA master bit there is
the model's reading of "halt and initialize" (log 34). -/
def Obligations.SleepEntersTheModeSbySelects : Prop :=
  ∀ s : State, decode 0x001B = .ok .sleep ∧
    (s.platform.sby = false → ∃ t, exec .sleep s = .next t ∧ Sequential s t ∧ t.mode = .sleep ∧
      Frame {} { s with mode := .sleep } t) ∧
    (s.platform.sby = true → ∃ t, exec .sleep s = .next t ∧ Sequential s t ∧ t.mode = .standby ∧
      (∀ r, t.reg r = s.reg r) ∧ t.sr = s.sr ∧ t.gbr = s.gbr ∧ t.vbr = s.vbr ∧ t.pr = s.pr ∧
      (s.multSinceMach = false → s.multSinceMacl = false → t.mach = s.mach ∧ t.macl = s.macl) ∧
      t.multSinceMach = s.multSinceMach ∧ t.multSinceMacl = s.multSinceMacl ∧
      t.platform = { s.platform with dme := false } ∧ t.map = s.map ∧ t.storedAt = s.storedAt ∧
      t.fetchedAt = s.fetchedAt ∧ t.inputs = s.inputs ∧ t.between = s.between ∧ t.tick = s.tick ∧
      ∀ k a, s.kindAt a ≠ .onChipRam → t.byteAt k a = s.byteAt k a)

/-- TRAPA #imm takes the exception of vector imm with pc + 2 saved and SR unchanged.
The push order and the saved PC are D9 and D10 (log 10, log 11); the fault is D36 (log 31). What other masters write
before one of the entry's accesses is D14 (log 36). -/
def Obligations.TrapaEntersItsVector : Prop :=
  ∀ (imm : BitVec 8) (s : State), s.delay = none → decode (codeI 0b11000011 imm) = .ok (.trapa imm) ∧
    (CanEnter s imm → ∃ t, exec (.trapa imm) s = .next t ∧ Entered s imm (s.pc + 2) none t) ∧
    (¬CanEnter s imm → exec (.trapa imm) s = .fault .exceptionEntry)

/-- T, S, M, Q and the mask change only by the instructions that R25 and R41 list.
That entry changes no flag is D9 (log 10); the positions of the bits are D2 (log 2). -/
def Obligations.StatusBitsChangeOnlyByTheirWriters : Prop :=
  ∀ (i : Instr) (s t : State), exec i s = .next t →
    (i.writesT = false → t.t = s.t) ∧ (i.writesSr = false → t.sBit = s.sBit ∧ t.imask = s.imask) ∧
    (i.writesM = false → t.m = s.m) ∧ (i.writesQ = false → t.q = s.q)

/-- GBR, VBR, PR, MACH and MACL change only by the instructions that R41 lists.
MACH under MULS.W, MULU.W and MUL.L rests on D17 (log 15); what standby does to the pair is U10 (log 34). -/
def Obligations.SpecialRegistersChangeOnlyByTheirWriters : Prop :=
  ∀ (i : Instr) (s t : State), exec i s = .next t →
    (i.writesGbr = false → t.gbr = s.gbr) ∧ (i.writesVbr = false → t.vbr = s.vbr) ∧ (i.writesPr = false → t.pr = s.pr) ∧
    (i.writesMach = false → (i = .sleep → s.platform.sby = true → s.multSinceMach = false ∧ s.multSinceMacl = false) →
      t.mach = s.mach) ∧
    (i.writesMacl = false → (i = .sleep → s.platform.sby = true → s.multSinceMach = false ∧ s.multSinceMacl = false) →
      t.macl = s.macl)

/-- Only a delayed branch leaves a slot pending, never two; only SLEEP leaves program execution.
That a second branch cannot stand in a slot is D7 (log 8). -/
def Obligations.DelaySlotsAndModesArePairedWithTheirInstructions : Prop :=
  ∀ (i : Instr) (s t : State), exec i s = .next t →
    (t.delay ≠ none → i.isDelayedBranch = true ∧ s.delay = none ∧ t.pc = s.pc + 2) ∧
    (s.mode = .run → i ≠ .sleep → t.mode = .run)

/-- exec refuses only where the spec says refuse: U4, U5 and U8; the multiplier's list is refused exactly while MULT is
stopped.
U8 (log 33), U4 (log 20), U5 (log 21); which word "follows" an untaken BF/S or BT/S is the model's reading (log 21). -/
def Obligations.RefusalsOfExecAreTheSpecsThree : Prop :=
  ∀ (i : Instr) (s : State),
    (i.usesMultiplier = true → s.platform.stopMult = true → exec i s = .refused .multiplierInModuleStandby) ∧
    ∀ r, exec i s = .refused r →
      (r = .multiplierInModuleStandby ∧ i.usesMultiplier = true ∧ s.platform.stopMult = true) ∨
      (r = .pcRelativeInDelaySlot ∧ i.hasPcOperand = true ∧ s.delay ≠ none) ∨
      (r = .branchAfterUntakenDelayedBranch ∧ s.delay = none ∧ (∃ j, FollowedBy s j ∧ j.isBranchClass = true) ∧
        ((∃ d, i = .bfS d ∧ s.t = true) ∨ (∃ d, i = .btS d ∧ s.t = false)))
end

