-- ==== Sys2Proof/Laws/Decode.lean ====
section
/-! SUPPORT. The fields of an instruction word: what the decoder cuts out of a word put together from its fields, and that
register fields and registers stand for each other (R101 to R103). -/

namespace Sys2Proof

@[simp] theorem reg_field (r : Reg) : reg (field r) = r := rfl
@[simp] theorem field_reg (f : BitVec 4) : field (reg f) = f := rfl

/-- The four nibbles of a word. -/
theorem half_nibbles (a b c d : BitVec 4) :
    (a ++ b ++ c ++ d).extractLsb' 12 4 = a ∧ (a ++ b ++ c ++ d).extractLsb' 8 4 = b ∧
      (a ++ b ++ c ++ d).extractLsb' 4 4 = c ∧ (a ++ b ++ c ++ d).extractLsb' 0 4 = d := by
  refine ⟨?_, ?_, ?_, ?_⟩ <;>
    (ext i hi
     simp only [BitVec.getElem_extractLsb', BitVec.getLsbD_append]
     simp only [Nat.add_comm _ i]
     rw [← BitVec.getLsbD_eq_getElem]
     split <;> first | rfl | (split <;> first | rfl | (split <;> first | rfl | omega) | omega) | omega)

/-- What the decoder makes of a word put together from four nibbles. -/
theorem decode_nibbles (a b c d : BitVec 4) :
    decode (a ++ b ++ c ++ d) =
      match decodeNibbles a b c d with
      | some i => .ok i
      | none => .error (.undefinedWord (a ++ b ++ c ++ d)) := by
  obtain ⟨h1, h2, h3, h4⟩ := half_nibbles a b c d
  cases hd : decodeNibbles a b c d <;> simp only [decode, h1, h2, h3, h4, hd]

/-- A byte is its two nibbles. -/
theorem byte_nibbles (v : BitVec 8) : v.extractLsb' 4 4 ++ v.extractLsb' 0 4 = v := by
  ext i hi
  simp only [BitVec.getElem_append, BitVec.getElem_extractLsb', Nat.zero_add]
  split
  · exact BitVec.getLsbD_eq_getElem hi
  · next h => rw [show 4 + (i - 4) = i by omega, BitVec.getLsbD_eq_getElem hi]

/-- A 12-bit displacement is its three nibbles. -/
theorem disp12_nibbles (v : BitVec 12) : v.extractLsb' 8 4 ++ v.extractLsb' 4 4 ++ v.extractLsb' 0 4 = v := by
  ext i hi
  simp only [BitVec.getElem_append, BitVec.getElem_extractLsb', Nat.zero_add]
  split
  · exact BitVec.getLsbD_eq_getElem hi
  · split
    · next h _ => rw [show 4 + (i - 4) = i by omega, BitVec.getLsbD_eq_getElem hi]
    · next h h' => rw [show 8 + (i - 4 - 4) = i by omega, BitVec.getLsbD_eq_getElem hi]

/-- A word is its four nibbles. -/
theorem half_eq_nibbles (w : Half) :
    w.extractLsb' 12 4 ++ w.extractLsb' 8 4 ++ w.extractLsb' 4 4 ++ w.extractLsb' 0 4 = w := by
  ext i hi
  simp only [BitVec.getElem_append, BitVec.getElem_extractLsb', Nat.zero_add]
  split
  · exact BitVec.getLsbD_eq_getElem hi
  · split
    · next h _ => rw [show 4 + (i - 4) = i by omega, BitVec.getLsbD_eq_getElem hi]
    · split
      · next h _ _ => rw [show 8 + (i - 4 - 4) = i by omega, BitVec.getLsbD_eq_getElem hi]
      · next h _ _ => rw [show 12 + (i - 4 - 4 - 4) = i by omega, BitVec.getLsbD_eq_getElem hi]

/-- A word of two nibbles and a byte, by its nibbles. -/
theorem nibbles_of_byte (a b : BitVec 4) (v : BitVec 8) :
    (a ++ b ++ v : Half) = a ++ b ++ v.extractLsb' 4 4 ++ v.extractLsb' 0 4 := by
  ext i hi
  simp only [BitVec.getElem_append, BitVec.getElem_extractLsb', Nat.zero_add]
  repeat' split
  all_goals first
    | omega
    | (simp only [← BitVec.getLsbD_eq_getElem, Nat.sub_sub, Nat.reduceAdd]; done)
    | (simp only [← BitVec.getLsbD_eq_getElem]; congr 1; omega)

/-- A word of two bytes, by its nibbles. -/
theorem nibbles_of_bytes (x v : BitVec 8) :
    (x ++ v : Half) = x.extractLsb' 4 4 ++ x.extractLsb' 0 4 ++ v.extractLsb' 4 4 ++ v.extractLsb' 0 4 := by
  rw [← nibbles_of_byte, byte_nibbles]

/-- A word of a byte and two nibbles, by its nibbles. -/
theorem nibbles_of_byte_first (x : BitVec 8) (c d : BitVec 4) :
    (x ++ c ++ d : Half) = x.extractLsb' 4 4 ++ x.extractLsb' 0 4 ++ c ++ d := by
  rw [byte_nibbles]

/-- A word of a nibble and a 12-bit displacement, by its nibbles. -/
theorem nibbles_of_disp12 (a : BitVec 4) (v : BitVec 12) :
    (a ++ v : Half) = a ++ v.extractLsb' 8 4 ++ v.extractLsb' 4 4 ++ v.extractLsb' 0 4 := by
  ext i hi
  simp only [BitVec.getElem_append, BitVec.getElem_extractLsb', Nat.zero_add]
  repeat' split
  all_goals first
    | omega
    | (simp only [← BitVec.getLsbD_eq_getElem, Nat.sub_sub, Nat.reduceAdd]; done)
    | (simp only [← BitVec.getLsbD_eq_getElem, Nat.sub_sub, Nat.reduceAdd]; congr 1; omega)

end Sys2Proof
end

