-- ==== Sys2Proof/Laws/Memory.lean ====
section
/-! SUPPORT. The laws of the memory list and of the sets of addresses: a read after a write, a read elsewhere, and
that every operation keeps the canonical form. -/

namespace Sys2Proof.Machine

/-! ### Reading what was written -/

theorem Memory.lookup_erase (cells : List Host.Cell) (a b : Nat) :
    Memory.lookup (Memory.erase cells a) b = if b = a then unlistedByte else Memory.lookup cells b := by
  induction cells with
  | nil => simp [Memory.erase, Memory.lookup]
  | cons c rest ih =>
    obtain ⟨k, v⟩ := c
    by_cases hk : k = a
    · simp only [Memory.erase, hk, if_true, ih, Memory.lookup]
      by_cases hb : b = a
      · simp [hb]
      · simp [hb, Ne.symm hb]
    · simp only [Memory.erase, hk, if_false, Memory.lookup, ih]
      by_cases hkb : k = b
      · simp [← hkb, hk]
      · simp [hkb]

theorem Memory.lookup_insert_self (cells : List Host.Cell) (a : Nat) (v : Byte)
    (h : ∀ c ∈ cells, c.1 ≠ a) : Memory.lookup (Memory.insert cells a v) a = v := by
  induction cells with
  | nil => simp [Memory.insert, Memory.lookup]
  | cons c rest ih =>
    obtain ⟨k, w⟩ := c
    have hk : k ≠ a := h (k, w) (by simp)
    simp only [Memory.insert]
    split
    · simp [Memory.lookup]
    · simp [Memory.lookup, hk, ih fun c hc => h c (by simp [hc])]

theorem Memory.lookup_insert_ne (cells : List Host.Cell) (a b : Nat) (v : Byte) (hb : b ≠ a) :
    Memory.lookup (Memory.insert cells a v) b = Memory.lookup cells b := by
  induction cells with
  | nil => simp [Memory.insert, Memory.lookup, Ne.symm hb]
  | cons c rest ih =>
    obtain ⟨k, w⟩ := c
    simp only [Memory.insert]
    split
    · simp [Memory.lookup, Ne.symm hb]
    · simp [Memory.lookup, ih]

theorem Memory.mem_erase {cells : List Host.Cell} {a : Nat} {c : Host.Cell} :
    c ∈ Memory.erase cells a ↔ c ∈ cells ∧ c.1 ≠ a := by
  induction cells with
  | nil => simp [Memory.erase]
  | cons d rest ih =>
    obtain ⟨k, v⟩ := d
    by_cases hk : k = a
    · simp only [Memory.erase, hk, if_true, ih, List.mem_cons]
      constructor
      · rintro ⟨h1, h2⟩; exact ⟨.inr h1, h2⟩
      · rintro ⟨rfl | h1, h2⟩
        · exact absurd rfl h2
        · exact ⟨h1, h2⟩
    · simp only [Memory.erase, hk, if_false, List.mem_cons, ih]
      constructor
      · rintro (rfl | ⟨h1, h2⟩)
        · exact ⟨.inl rfl, hk⟩
        · exact ⟨.inr h1, h2⟩
      · rintro ⟨rfl | h1, h2⟩
        · exact .inl rfl
        · exact .inr ⟨h1, h2⟩

/-- Reading any address after writing one byte. It holds of every list, canonical or not. -/
@[simp] theorem Memory.lookup_put (cells : List Host.Cell) (a b : Nat) (v : Byte) :
    Memory.lookup (Memory.put cells a v) b = if b = a then v else Memory.lookup cells b := by
  unfold Memory.put
  split
  · next hv => rw [Memory.lookup_erase, hv]
  · by_cases hb : b = a
    · subst hb
      rw [Memory.lookup_insert_self _ _ _ fun c hc => (Memory.mem_erase.1 hc).2, if_pos rfl]
    · rw [Memory.lookup_insert_ne _ _ _ _ hb, Memory.lookup_erase, if_neg hb, if_neg hb]

/-! ### The canonical form -/

theorem Memory.mem_insert {cells : List Host.Cell} {a : Nat} {v : Byte} {c : Host.Cell} :
    c ∈ Memory.insert cells a v ↔ c = (a, v) ∨ c ∈ cells := by
  induction cells with
  | nil => simp [Memory.insert]
  | cons d rest ih =>
    obtain ⟨k, w⟩ := d
    simp only [Memory.insert]
    split
    · simp
    · simp only [List.mem_cons, ih]
      exact or_left_comm

theorem Memory.erase_sublist (cells : List Host.Cell) (a : Nat) : (Memory.erase cells a).Sublist cells := by
  induction cells with
  | nil => simp [Memory.erase]
  | cons d rest ih =>
    obtain ⟨k, w⟩ := d
    simp only [Memory.erase]
    split
    · exact ih.cons _
    · exact ih.cons_cons _

theorem Memory.erase_wf {cells : List Host.Cell} (h : Memory.wf cells) (a : Nat) : Memory.wf (Memory.erase cells a) :=
  ⟨h.1.sublist (Memory.erase_sublist cells a), fun c hc => h.2 c (Memory.mem_erase.1 hc).1⟩

theorem Memory.insert_sorted {cells : List Host.Cell} (h : cells.Pairwise fun x y => x.1 < y.1) (a : Nat) (v : Byte)
    (hn : ∀ c ∈ cells, c.1 ≠ a) : (Memory.insert cells a v).Pairwise fun x y => x.1 < y.1 := by
  induction cells with
  | nil => simp [Memory.insert]
  | cons d rest ih =>
    obtain ⟨k, w⟩ := d
    obtain ⟨hd, hr⟩ := List.pairwise_cons.1 h
    simp only [Memory.insert]
    split
    · next hlt =>
      refine List.pairwise_cons.2 ⟨fun c hc => ?_, h⟩
      rcases List.mem_cons.1 hc with rfl | hc
      · exact hlt
      · exact hlt.trans (hd c hc)
    · next hge =>
      refine List.pairwise_cons.2 ⟨fun c hc => ?_, ih hr fun c hc => hn c (by simp [hc])⟩
      rcases Memory.mem_insert.1 hc with rfl | hc
      · have := hn (k, w) (by simp)
        omega
      · exact hd c hc

/-- Writing a byte keeps the canonical form. -/
theorem Memory.put_wf {cells : List Host.Cell} (h : Memory.wf cells) {a : Nat} (ha : a < 2 ^ 32) (v : Byte) :
    Memory.wf (Memory.put cells a v) := by
  have he := Memory.erase_wf h a
  unfold Memory.put
  split
  · exact he
  · next hv =>
    refine ⟨Memory.insert_sorted he.1 a v fun c hc => (Memory.mem_erase.1 hc).2, fun c hc => ?_⟩
    rcases Memory.mem_insert.1 hc with rfl | hc
    · exact ⟨ha, hv⟩
    · exact he.2 c hc

/-- So does writing several. -/
theorem Memory.putAll_wf {cells : List Host.Cell} (h : Memory.wf cells) (ws : List (Word × Byte)) :
    Memory.wf (Memory.putAll cells ws) := by
  unfold Memory.putAll
  induction ws generalizing cells with
  | nil => exact h
  | cons w ws ih => exact ih (Memory.put_wf h w.1.isLt w.2)

/-- Writes elsewhere leave a byte alone. -/
theorem Memory.lookup_putAll_of_notMem (cells : List Host.Cell) (ws : List (Word × Byte)) (a : Word)
    (h : a ∉ ws.map Prod.fst) : Memory.lookup (Memory.putAll cells ws) a.toNat = Memory.lookup cells a.toNat := by
  unfold Memory.putAll
  induction ws generalizing cells with
  | nil => rfl
  | cons w ws ih =>
    simp only [List.map_cons, List.mem_cons, not_or] at h
    rw [List.foldl_cons, ih _ h.2, Memory.lookup_put, if_neg fun e => h.1 (BitVec.toNat_inj.1 e)]

/-- Of several writes to one address the last stays. -/
theorem Memory.lookup_putAll_last (cells : List Host.Cell) (ws₁ : List (Word × Byte)) (a : Word) (v : Byte)
    (ws₂ : List (Word × Byte)) (h : a ∉ ws₂.map Prod.fst) :
    Memory.lookup (Memory.putAll cells (ws₁ ++ (a, v) :: ws₂)) a.toNat = v := by
  have e : Memory.putAll cells (ws₁ ++ (a, v) :: ws₂) =
      Memory.putAll (Memory.put (Memory.putAll cells ws₁) a.toNat v) ws₂ := by simp [Memory.putAll]
  rw [e, Memory.lookup_putAll_of_notMem _ _ _ h, Memory.lookup_put, if_pos rfl]

/-- The empty memory is canonical. -/
theorem Memory.nil_wf : Memory.wf [] := ⟨List.Pairwise.nil, by simp⟩

/-! ### Sets of addresses -/

@[simp] theorem AddressSet.mem_insert {l : List Nat} {a b : Nat} : b ∈ AddressSet.insert l a ↔ b = a ∨ b ∈ l := by
  induction l with
  | nil => simp [AddressSet.insert]
  | cons k rest ih =>
    simp only [AddressSet.insert]
    split
    · simp
    · split
      · next h => simp [h]
      · simp only [List.mem_cons, ih]
        exact or_left_comm

/-- Adding an address keeps the canonical form. -/
theorem AddressSet.insert_wf {l : List Nat} (h : AddressSet.wf l) {a : Nat} (ha : a < 2 ^ 32) :
    AddressSet.wf (AddressSet.insert l a) := by
  constructor
  · obtain ⟨hs, -⟩ := h
    induction l with
    | nil => simp [AddressSet.insert]
    | cons k rest ih =>
      obtain ⟨hd, hr⟩ := List.pairwise_cons.1 hs
      simp only [AddressSet.insert]
      split
      · next hlt =>
        refine List.pairwise_cons.2 ⟨fun c hc => ?_, hs⟩
        rcases List.mem_cons.1 hc with rfl | hc
        · exact hlt
        · exact hlt.trans (hd c hc)
      · split
        · exact hs
        · refine List.pairwise_cons.2 ⟨fun c hc => ?_, ih hr⟩
          rcases AddressSet.mem_insert.1 hc with rfl | hc
          · omega
          · exact hd c hc
  · intro b hb
    rcases AddressSet.mem_insert.1 hb with rfl | hb
    · exact ha
    · exact h.2 b hb

/-- What several additions leave. -/
@[simp] theorem AddressSet.mem_insertAll {l : List Nat} {as : List Word} {b : Nat} :
    b ∈ AddressSet.insertAll l as ↔ b ∈ l ∨ ∃ a ∈ as, a.toNat = b := by
  unfold AddressSet.insertAll
  induction as generalizing l with
  | nil => simp
  | cons a as ih => rw [List.foldl_cons, ih]; simp [or_left_comm, or_assoc, eq_comm]

/-- So does adding several. -/
theorem AddressSet.insertAll_wf {l : List Nat} (h : AddressSet.wf l) (as : List Word) :
    AddressSet.wf (AddressSet.insertAll l as) := by
  unfold AddressSet.insertAll
  induction as generalizing l with
  | nil => exact h
  | cons a as ih => exact ih (AddressSet.insert_wf h a.isLt)

end Sys2Proof.Machine
end

