-- ==== Sys2Proof/Laws/State.lean ====
section
/-! SUPPORT. One lemma per field and per update of State, each true by unfolding and tagged simp, so that no proof unfolds a
record update. Read `x_f`: field `f` after update `x`. -/

namespace Sys2Proof.Machine

variable (s : State)

/-! ### `setReg` -/

@[simp] theorem State.setReg_sr (r : Reg) (v : Word) : (s.setReg r v).sr = s.sr := rfl
@[simp] theorem State.setReg_gbr (r : Reg) (v : Word) : (s.setReg r v).gbr = s.gbr := rfl
@[simp] theorem State.setReg_vbr (r : Reg) (v : Word) : (s.setReg r v).vbr = s.vbr := rfl
@[simp] theorem State.setReg_mach (r : Reg) (v : Word) : (s.setReg r v).mach = s.mach := rfl
@[simp] theorem State.setReg_macl (r : Reg) (v : Word) : (s.setReg r v).macl = s.macl := rfl
@[simp] theorem State.setReg_pr (r : Reg) (v : Word) : (s.setReg r v).pr = s.pr := rfl
@[simp] theorem State.setReg_pc (r : Reg) (v : Word) : (s.setReg r v).pc = s.pc := rfl
@[simp] theorem State.setReg_delay (r : Reg) (v : Word) : (s.setReg r v).delay = s.delay := rfl
@[simp] theorem State.setReg_mode (r : Reg) (v : Word) : (s.setReg r v).mode = s.mode := rfl
@[simp] theorem State.setReg_multSinceMach (r : Reg) (v : Word) : (s.setReg r v).multSinceMach = s.multSinceMach := rfl
@[simp] theorem State.setReg_multSinceMacl (r : Reg) (v : Word) : (s.setReg r v).multSinceMacl = s.multSinceMacl := rfl
@[simp] theorem State.setReg_platform (r : Reg) (v : Word) : (s.setReg r v).platform = s.platform := rfl
@[simp] theorem State.setReg_mem (r : Reg) (v : Word) : (s.setReg r v).mem = s.mem := rfl
@[simp] theorem State.setReg_map (r : Reg) (v : Word) : (s.setReg r v).map = s.map := rfl
@[simp] theorem State.setReg_storedAt (r : Reg) (v : Word) : (s.setReg r v).storedAt = s.storedAt := rfl
@[simp] theorem State.setReg_fetchedAt (r : Reg) (v : Word) : (s.setReg r v).fetchedAt = s.fetchedAt := rfl
@[simp] theorem State.setReg_inputs (r : Reg) (v : Word) : (s.setReg r v).inputs = s.inputs := rfl
@[simp] theorem State.setReg_between (r : Reg) (v : Word) : (s.setReg r v).between = s.between := rfl
@[simp] theorem State.setReg_tick (r : Reg) (v : Word) : (s.setReg r v).tick = s.tick := rfl
@[simp] theorem State.setReg_t (r : Reg) (v : Word) : (s.setReg r v).t = s.t := rfl
@[simp] theorem State.setReg_sBit (r : Reg) (v : Word) : (s.setReg r v).sBit = s.sBit := rfl
@[simp] theorem State.setReg_q (r : Reg) (v : Word) : (s.setReg r v).q = s.q := rfl
@[simp] theorem State.setReg_m (r : Reg) (v : Word) : (s.setReg r v).m = s.m := rfl
@[simp] theorem State.setReg_imask (r : Reg) (v : Word) : (s.setReg r v).imask = s.imask := rfl
@[simp] theorem State.setReg_srValue (r : Reg) (v : Word) : (s.setReg r v).srValue = s.srValue := rfl
@[simp] theorem State.setReg_mac (r : Reg) (v : Word) : (s.setReg r v).mac = s.mac := rfl
@[simp] theorem State.setReg_nextPc (r : Reg) (v : Word) : (s.setReg r v).nextPc = s.nextPc := rfl
@[simp] theorem State.setReg_pcValue (r : Reg) (v : Word) : (s.setReg r v).pcValue = s.pcValue := rfl
@[simp] theorem State.setReg_kindAt (r : Reg) (v : Word) (x : Word) : (s.setReg r v).kindAt x = s.kindAt x := rfl
@[simp] theorem State.setReg_byteAt (r : Reg) (v : Word) (k : Nat) (x : Word) : (s.setReg r v).byteAt k x = s.byteAt k x := rfl
@[simp] theorem State.setReg_mapped (r : Reg) (v : Word) (sz : Size) (x : Word) : (s.setReg r v).mapped sz x = s.mapped sz x := rfl
@[simp] theorem State.setReg_writable (r : Reg) (v : Word) (sz : Size) (x : Word) : (s.setReg r v).writable sz x = s.writable sz x := rfl
@[simp] theorem State.setReg_readValue (r : Reg) (v : Word) (k : Nat) (sz : Size) (x : Word) : (s.setReg r v).readValue k sz x = s.readValue k sz x := rfl

/-! ### `setT` -/

@[simp] theorem State.setT_sr (b : Bool) : (s.setT b).sr = setBit s.sr bitT b := rfl
@[simp] theorem State.setT_gbr (b : Bool) : (s.setT b).gbr = s.gbr := rfl
@[simp] theorem State.setT_vbr (b : Bool) : (s.setT b).vbr = s.vbr := rfl
@[simp] theorem State.setT_mach (b : Bool) : (s.setT b).mach = s.mach := rfl
@[simp] theorem State.setT_macl (b : Bool) : (s.setT b).macl = s.macl := rfl
@[simp] theorem State.setT_pr (b : Bool) : (s.setT b).pr = s.pr := rfl
@[simp] theorem State.setT_pc (b : Bool) : (s.setT b).pc = s.pc := rfl
@[simp] theorem State.setT_delay (b : Bool) : (s.setT b).delay = s.delay := rfl
@[simp] theorem State.setT_mode (b : Bool) : (s.setT b).mode = s.mode := rfl
@[simp] theorem State.setT_multSinceMach (b : Bool) : (s.setT b).multSinceMach = s.multSinceMach := rfl
@[simp] theorem State.setT_multSinceMacl (b : Bool) : (s.setT b).multSinceMacl = s.multSinceMacl := rfl
@[simp] theorem State.setT_platform (b : Bool) : (s.setT b).platform = s.platform := rfl
@[simp] theorem State.setT_mem (b : Bool) : (s.setT b).mem = s.mem := rfl
@[simp] theorem State.setT_map (b : Bool) : (s.setT b).map = s.map := rfl
@[simp] theorem State.setT_storedAt (b : Bool) : (s.setT b).storedAt = s.storedAt := rfl
@[simp] theorem State.setT_fetchedAt (b : Bool) : (s.setT b).fetchedAt = s.fetchedAt := rfl
@[simp] theorem State.setT_inputs (b : Bool) : (s.setT b).inputs = s.inputs := rfl
@[simp] theorem State.setT_between (b : Bool) : (s.setT b).between = s.between := rfl
@[simp] theorem State.setT_tick (b : Bool) : (s.setT b).tick = s.tick := rfl
@[simp] theorem State.setT_regs (b : Bool) : (s.setT b).regs = s.regs := rfl
@[simp] theorem State.setT_reg (b : Bool) (q : Reg) : (s.setT b).reg q = s.reg q := rfl
@[simp] theorem State.setT_mac (b : Bool) : (s.setT b).mac = s.mac := rfl
@[simp] theorem State.setT_nextPc (b : Bool) : (s.setT b).nextPc = s.nextPc := rfl
@[simp] theorem State.setT_pcValue (b : Bool) : (s.setT b).pcValue = s.pcValue := rfl
@[simp] theorem State.setT_kindAt (b : Bool) (x : Word) : (s.setT b).kindAt x = s.kindAt x := rfl
@[simp] theorem State.setT_byteAt (b : Bool) (k : Nat) (x : Word) : (s.setT b).byteAt k x = s.byteAt k x := rfl
@[simp] theorem State.setT_mapped (b : Bool) (sz : Size) (x : Word) : (s.setT b).mapped sz x = s.mapped sz x := rfl
@[simp] theorem State.setT_writable (b : Bool) (sz : Size) (x : Word) : (s.setT b).writable sz x = s.writable sz x := rfl
@[simp] theorem State.setT_readValue (b : Bool) (k : Nat) (sz : Size) (x : Word) : (s.setT b).readValue k sz x = s.readValue k sz x := rfl

/-! ### `setQ` -/

@[simp] theorem State.setQ_sr (b : Bool) : (s.setQ b).sr = setBit s.sr bitQ b := rfl
@[simp] theorem State.setQ_gbr (b : Bool) : (s.setQ b).gbr = s.gbr := rfl
@[simp] theorem State.setQ_vbr (b : Bool) : (s.setQ b).vbr = s.vbr := rfl
@[simp] theorem State.setQ_mach (b : Bool) : (s.setQ b).mach = s.mach := rfl
@[simp] theorem State.setQ_macl (b : Bool) : (s.setQ b).macl = s.macl := rfl
@[simp] theorem State.setQ_pr (b : Bool) : (s.setQ b).pr = s.pr := rfl
@[simp] theorem State.setQ_pc (b : Bool) : (s.setQ b).pc = s.pc := rfl
@[simp] theorem State.setQ_delay (b : Bool) : (s.setQ b).delay = s.delay := rfl
@[simp] theorem State.setQ_mode (b : Bool) : (s.setQ b).mode = s.mode := rfl
@[simp] theorem State.setQ_multSinceMach (b : Bool) : (s.setQ b).multSinceMach = s.multSinceMach := rfl
@[simp] theorem State.setQ_multSinceMacl (b : Bool) : (s.setQ b).multSinceMacl = s.multSinceMacl := rfl
@[simp] theorem State.setQ_platform (b : Bool) : (s.setQ b).platform = s.platform := rfl
@[simp] theorem State.setQ_mem (b : Bool) : (s.setQ b).mem = s.mem := rfl
@[simp] theorem State.setQ_map (b : Bool) : (s.setQ b).map = s.map := rfl
@[simp] theorem State.setQ_storedAt (b : Bool) : (s.setQ b).storedAt = s.storedAt := rfl
@[simp] theorem State.setQ_fetchedAt (b : Bool) : (s.setQ b).fetchedAt = s.fetchedAt := rfl
@[simp] theorem State.setQ_inputs (b : Bool) : (s.setQ b).inputs = s.inputs := rfl
@[simp] theorem State.setQ_between (b : Bool) : (s.setQ b).between = s.between := rfl
@[simp] theorem State.setQ_tick (b : Bool) : (s.setQ b).tick = s.tick := rfl
@[simp] theorem State.setQ_regs (b : Bool) : (s.setQ b).regs = s.regs := rfl
@[simp] theorem State.setQ_reg (b : Bool) (q : Reg) : (s.setQ b).reg q = s.reg q := rfl
@[simp] theorem State.setQ_mac (b : Bool) : (s.setQ b).mac = s.mac := rfl
@[simp] theorem State.setQ_nextPc (b : Bool) : (s.setQ b).nextPc = s.nextPc := rfl
@[simp] theorem State.setQ_pcValue (b : Bool) : (s.setQ b).pcValue = s.pcValue := rfl
@[simp] theorem State.setQ_kindAt (b : Bool) (x : Word) : (s.setQ b).kindAt x = s.kindAt x := rfl
@[simp] theorem State.setQ_byteAt (b : Bool) (k : Nat) (x : Word) : (s.setQ b).byteAt k x = s.byteAt k x := rfl
@[simp] theorem State.setQ_mapped (b : Bool) (sz : Size) (x : Word) : (s.setQ b).mapped sz x = s.mapped sz x := rfl
@[simp] theorem State.setQ_writable (b : Bool) (sz : Size) (x : Word) : (s.setQ b).writable sz x = s.writable sz x := rfl
@[simp] theorem State.setQ_readValue (b : Bool) (k : Nat) (sz : Size) (x : Word) : (s.setQ b).readValue k sz x = s.readValue k sz x := rfl

/-! ### `setM` -/

@[simp] theorem State.setM_sr (b : Bool) : (s.setM b).sr = setBit s.sr bitM b := rfl
@[simp] theorem State.setM_gbr (b : Bool) : (s.setM b).gbr = s.gbr := rfl
@[simp] theorem State.setM_vbr (b : Bool) : (s.setM b).vbr = s.vbr := rfl
@[simp] theorem State.setM_mach (b : Bool) : (s.setM b).mach = s.mach := rfl
@[simp] theorem State.setM_macl (b : Bool) : (s.setM b).macl = s.macl := rfl
@[simp] theorem State.setM_pr (b : Bool) : (s.setM b).pr = s.pr := rfl
@[simp] theorem State.setM_pc (b : Bool) : (s.setM b).pc = s.pc := rfl
@[simp] theorem State.setM_delay (b : Bool) : (s.setM b).delay = s.delay := rfl
@[simp] theorem State.setM_mode (b : Bool) : (s.setM b).mode = s.mode := rfl
@[simp] theorem State.setM_multSinceMach (b : Bool) : (s.setM b).multSinceMach = s.multSinceMach := rfl
@[simp] theorem State.setM_multSinceMacl (b : Bool) : (s.setM b).multSinceMacl = s.multSinceMacl := rfl
@[simp] theorem State.setM_platform (b : Bool) : (s.setM b).platform = s.platform := rfl
@[simp] theorem State.setM_mem (b : Bool) : (s.setM b).mem = s.mem := rfl
@[simp] theorem State.setM_map (b : Bool) : (s.setM b).map = s.map := rfl
@[simp] theorem State.setM_storedAt (b : Bool) : (s.setM b).storedAt = s.storedAt := rfl
@[simp] theorem State.setM_fetchedAt (b : Bool) : (s.setM b).fetchedAt = s.fetchedAt := rfl
@[simp] theorem State.setM_inputs (b : Bool) : (s.setM b).inputs = s.inputs := rfl
@[simp] theorem State.setM_between (b : Bool) : (s.setM b).between = s.between := rfl
@[simp] theorem State.setM_tick (b : Bool) : (s.setM b).tick = s.tick := rfl
@[simp] theorem State.setM_regs (b : Bool) : (s.setM b).regs = s.regs := rfl
@[simp] theorem State.setM_reg (b : Bool) (q : Reg) : (s.setM b).reg q = s.reg q := rfl
@[simp] theorem State.setM_mac (b : Bool) : (s.setM b).mac = s.mac := rfl
@[simp] theorem State.setM_nextPc (b : Bool) : (s.setM b).nextPc = s.nextPc := rfl
@[simp] theorem State.setM_pcValue (b : Bool) : (s.setM b).pcValue = s.pcValue := rfl
@[simp] theorem State.setM_kindAt (b : Bool) (x : Word) : (s.setM b).kindAt x = s.kindAt x := rfl
@[simp] theorem State.setM_byteAt (b : Bool) (k : Nat) (x : Word) : (s.setM b).byteAt k x = s.byteAt k x := rfl
@[simp] theorem State.setM_mapped (b : Bool) (sz : Size) (x : Word) : (s.setM b).mapped sz x = s.mapped sz x := rfl
@[simp] theorem State.setM_writable (b : Bool) (sz : Size) (x : Word) : (s.setM b).writable sz x = s.writable sz x := rfl
@[simp] theorem State.setM_readValue (b : Bool) (k : Nat) (sz : Size) (x : Word) : (s.setM b).readValue k sz x = s.readValue k sz x := rfl

/-! ### `setSr` -/

@[simp] theorem State.setSr_sr (v : Word) : (s.setSr v).sr = v &&& srMask := rfl
@[simp] theorem State.setSr_gbr (v : Word) : (s.setSr v).gbr = s.gbr := rfl
@[simp] theorem State.setSr_vbr (v : Word) : (s.setSr v).vbr = s.vbr := rfl
@[simp] theorem State.setSr_mach (v : Word) : (s.setSr v).mach = s.mach := rfl
@[simp] theorem State.setSr_macl (v : Word) : (s.setSr v).macl = s.macl := rfl
@[simp] theorem State.setSr_pr (v : Word) : (s.setSr v).pr = s.pr := rfl
@[simp] theorem State.setSr_pc (v : Word) : (s.setSr v).pc = s.pc := rfl
@[simp] theorem State.setSr_delay (v : Word) : (s.setSr v).delay = s.delay := rfl
@[simp] theorem State.setSr_mode (v : Word) : (s.setSr v).mode = s.mode := rfl
@[simp] theorem State.setSr_multSinceMach (v : Word) : (s.setSr v).multSinceMach = s.multSinceMach := rfl
@[simp] theorem State.setSr_multSinceMacl (v : Word) : (s.setSr v).multSinceMacl = s.multSinceMacl := rfl
@[simp] theorem State.setSr_platform (v : Word) : (s.setSr v).platform = s.platform := rfl
@[simp] theorem State.setSr_mem (v : Word) : (s.setSr v).mem = s.mem := rfl
@[simp] theorem State.setSr_map (v : Word) : (s.setSr v).map = s.map := rfl
@[simp] theorem State.setSr_storedAt (v : Word) : (s.setSr v).storedAt = s.storedAt := rfl
@[simp] theorem State.setSr_fetchedAt (v : Word) : (s.setSr v).fetchedAt = s.fetchedAt := rfl
@[simp] theorem State.setSr_inputs (v : Word) : (s.setSr v).inputs = s.inputs := rfl
@[simp] theorem State.setSr_between (v : Word) : (s.setSr v).between = s.between := rfl
@[simp] theorem State.setSr_tick (v : Word) : (s.setSr v).tick = s.tick := rfl
@[simp] theorem State.setSr_regs (v : Word) : (s.setSr v).regs = s.regs := rfl
@[simp] theorem State.setSr_reg (v : Word) (q : Reg) : (s.setSr v).reg q = s.reg q := rfl
@[simp] theorem State.setSr_mac (v : Word) : (s.setSr v).mac = s.mac := rfl
@[simp] theorem State.setSr_nextPc (v : Word) : (s.setSr v).nextPc = s.nextPc := rfl
@[simp] theorem State.setSr_pcValue (v : Word) : (s.setSr v).pcValue = s.pcValue := rfl
@[simp] theorem State.setSr_kindAt (v : Word) (x : Word) : (s.setSr v).kindAt x = s.kindAt x := rfl
@[simp] theorem State.setSr_byteAt (v : Word) (k : Nat) (x : Word) : (s.setSr v).byteAt k x = s.byteAt k x := rfl
@[simp] theorem State.setSr_mapped (v : Word) (sz : Size) (x : Word) : (s.setSr v).mapped sz x = s.mapped sz x := rfl
@[simp] theorem State.setSr_writable (v : Word) (sz : Size) (x : Word) : (s.setSr v).writable sz x = s.writable sz x := rfl
@[simp] theorem State.setSr_readValue (v : Word) (k : Nat) (sz : Size) (x : Word) : (s.setSr v).readValue k sz x = s.readValue k sz x := rfl

/-! ### `setMac` -/

@[simp] theorem State.setMac_sr (v : BitVec 64) : (s.setMac v).sr = s.sr := rfl
@[simp] theorem State.setMac_gbr (v : BitVec 64) : (s.setMac v).gbr = s.gbr := rfl
@[simp] theorem State.setMac_vbr (v : BitVec 64) : (s.setMac v).vbr = s.vbr := rfl
@[simp] theorem State.setMac_mach (v : BitVec 64) : (s.setMac v).mach = v.extractLsb' 32 32 := rfl
@[simp] theorem State.setMac_macl (v : BitVec 64) : (s.setMac v).macl = v.extractLsb' 0 32 := rfl
@[simp] theorem State.setMac_pr (v : BitVec 64) : (s.setMac v).pr = s.pr := rfl
@[simp] theorem State.setMac_pc (v : BitVec 64) : (s.setMac v).pc = s.pc := rfl
@[simp] theorem State.setMac_delay (v : BitVec 64) : (s.setMac v).delay = s.delay := rfl
@[simp] theorem State.setMac_mode (v : BitVec 64) : (s.setMac v).mode = s.mode := rfl
@[simp] theorem State.setMac_multSinceMach (v : BitVec 64) : (s.setMac v).multSinceMach = s.multSinceMach := rfl
@[simp] theorem State.setMac_multSinceMacl (v : BitVec 64) : (s.setMac v).multSinceMacl = s.multSinceMacl := rfl
@[simp] theorem State.setMac_platform (v : BitVec 64) : (s.setMac v).platform = s.platform := rfl
@[simp] theorem State.setMac_mem (v : BitVec 64) : (s.setMac v).mem = s.mem := rfl
@[simp] theorem State.setMac_map (v : BitVec 64) : (s.setMac v).map = s.map := rfl
@[simp] theorem State.setMac_storedAt (v : BitVec 64) : (s.setMac v).storedAt = s.storedAt := rfl
@[simp] theorem State.setMac_fetchedAt (v : BitVec 64) : (s.setMac v).fetchedAt = s.fetchedAt := rfl
@[simp] theorem State.setMac_inputs (v : BitVec 64) : (s.setMac v).inputs = s.inputs := rfl
@[simp] theorem State.setMac_between (v : BitVec 64) : (s.setMac v).between = s.between := rfl
@[simp] theorem State.setMac_tick (v : BitVec 64) : (s.setMac v).tick = s.tick := rfl
@[simp] theorem State.setMac_regs (v : BitVec 64) : (s.setMac v).regs = s.regs := rfl
@[simp] theorem State.setMac_reg (v : BitVec 64) (q : Reg) : (s.setMac v).reg q = s.reg q := rfl
@[simp] theorem State.setMac_t (v : BitVec 64) : (s.setMac v).t = s.t := rfl
@[simp] theorem State.setMac_sBit (v : BitVec 64) : (s.setMac v).sBit = s.sBit := rfl
@[simp] theorem State.setMac_q (v : BitVec 64) : (s.setMac v).q = s.q := rfl
@[simp] theorem State.setMac_m (v : BitVec 64) : (s.setMac v).m = s.m := rfl
@[simp] theorem State.setMac_imask (v : BitVec 64) : (s.setMac v).imask = s.imask := rfl
@[simp] theorem State.setMac_srValue (v : BitVec 64) : (s.setMac v).srValue = s.srValue := rfl
@[simp] theorem State.setMac_nextPc (v : BitVec 64) : (s.setMac v).nextPc = s.nextPc := rfl
@[simp] theorem State.setMac_pcValue (v : BitVec 64) : (s.setMac v).pcValue = s.pcValue := rfl
@[simp] theorem State.setMac_kindAt (v : BitVec 64) (x : Word) : (s.setMac v).kindAt x = s.kindAt x := rfl
@[simp] theorem State.setMac_byteAt (v : BitVec 64) (k : Nat) (x : Word) : (s.setMac v).byteAt k x = s.byteAt k x := rfl
@[simp] theorem State.setMac_mapped (v : BitVec 64) (sz : Size) (x : Word) : (s.setMac v).mapped sz x = s.mapped sz x := rfl
@[simp] theorem State.setMac_writable (v : BitVec 64) (sz : Size) (x : Word) : (s.setMac v).writable sz x = s.writable sz x := rfl
@[simp] theorem State.setMac_readValue (v : BitVec 64) (k : Nat) (sz : Size) (x : Word) : (s.setMac v).readValue k sz x = s.readValue k sz x := rfl

/-! ### `multiplied` -/

@[simp] theorem State.multiplied_sr : (s.multiplied).sr = s.sr := rfl
@[simp] theorem State.multiplied_gbr : (s.multiplied).gbr = s.gbr := rfl
@[simp] theorem State.multiplied_vbr : (s.multiplied).vbr = s.vbr := rfl
@[simp] theorem State.multiplied_mach : (s.multiplied).mach = s.mach := rfl
@[simp] theorem State.multiplied_macl : (s.multiplied).macl = s.macl := rfl
@[simp] theorem State.multiplied_pr : (s.multiplied).pr = s.pr := rfl
@[simp] theorem State.multiplied_pc : (s.multiplied).pc = s.pc := rfl
@[simp] theorem State.multiplied_delay : (s.multiplied).delay = s.delay := rfl
@[simp] theorem State.multiplied_mode : (s.multiplied).mode = s.mode := rfl
@[simp] theorem State.multiplied_multSinceMach : (s.multiplied).multSinceMach = true := rfl
@[simp] theorem State.multiplied_multSinceMacl : (s.multiplied).multSinceMacl = true := rfl
@[simp] theorem State.multiplied_platform : (s.multiplied).platform = s.platform := rfl
@[simp] theorem State.multiplied_mem : (s.multiplied).mem = s.mem := rfl
@[simp] theorem State.multiplied_map : (s.multiplied).map = s.map := rfl
@[simp] theorem State.multiplied_storedAt : (s.multiplied).storedAt = s.storedAt := rfl
@[simp] theorem State.multiplied_fetchedAt : (s.multiplied).fetchedAt = s.fetchedAt := rfl
@[simp] theorem State.multiplied_inputs : (s.multiplied).inputs = s.inputs := rfl
@[simp] theorem State.multiplied_between : (s.multiplied).between = s.between := rfl
@[simp] theorem State.multiplied_tick : (s.multiplied).tick = s.tick := rfl
@[simp] theorem State.multiplied_regs : (s.multiplied).regs = s.regs := rfl
@[simp] theorem State.multiplied_reg (q : Reg) : (s.multiplied).reg q = s.reg q := rfl
@[simp] theorem State.multiplied_t : (s.multiplied).t = s.t := rfl
@[simp] theorem State.multiplied_sBit : (s.multiplied).sBit = s.sBit := rfl
@[simp] theorem State.multiplied_q : (s.multiplied).q = s.q := rfl
@[simp] theorem State.multiplied_m : (s.multiplied).m = s.m := rfl
@[simp] theorem State.multiplied_imask : (s.multiplied).imask = s.imask := rfl
@[simp] theorem State.multiplied_srValue : (s.multiplied).srValue = s.srValue := rfl
@[simp] theorem State.multiplied_mac : (s.multiplied).mac = s.mac := rfl
@[simp] theorem State.multiplied_nextPc : (s.multiplied).nextPc = s.nextPc := rfl
@[simp] theorem State.multiplied_pcValue : (s.multiplied).pcValue = s.pcValue := rfl
@[simp] theorem State.multiplied_kindAt (x : Word) : (s.multiplied).kindAt x = s.kindAt x := rfl
@[simp] theorem State.multiplied_byteAt (k : Nat) (x : Word) : (s.multiplied).byteAt k x = s.byteAt k x := rfl
@[simp] theorem State.multiplied_mapped (sz : Size) (x : Word) : (s.multiplied).mapped sz x = s.mapped sz x := rfl
@[simp] theorem State.multiplied_writable (sz : Size) (x : Word) : (s.multiplied).writable sz x = s.writable sz x := rfl
@[simp] theorem State.multiplied_readValue (k : Nat) (sz : Size) (x : Word) : (s.multiplied).readValue k sz x = s.readValue k sz x := rfl

/-! ### `advance` -/

@[simp] theorem State.advance_sr : (s.advance).sr = s.sr := rfl
@[simp] theorem State.advance_gbr : (s.advance).gbr = s.gbr := rfl
@[simp] theorem State.advance_vbr : (s.advance).vbr = s.vbr := rfl
@[simp] theorem State.advance_mach : (s.advance).mach = s.mach := rfl
@[simp] theorem State.advance_macl : (s.advance).macl = s.macl := rfl
@[simp] theorem State.advance_pr : (s.advance).pr = s.pr := rfl
@[simp] theorem State.advance_pc : (s.advance).pc = s.nextPc := rfl
@[simp] theorem State.advance_delay : (s.advance).delay = none := rfl
@[simp] theorem State.advance_mode : (s.advance).mode = s.mode := rfl
@[simp] theorem State.advance_multSinceMach : (s.advance).multSinceMach = s.multSinceMach := rfl
@[simp] theorem State.advance_multSinceMacl : (s.advance).multSinceMacl = s.multSinceMacl := rfl
@[simp] theorem State.advance_platform : (s.advance).platform = s.platform := rfl
@[simp] theorem State.advance_mem : (s.advance).mem = s.mem := rfl
@[simp] theorem State.advance_map : (s.advance).map = s.map := rfl
@[simp] theorem State.advance_storedAt : (s.advance).storedAt = s.storedAt := rfl
@[simp] theorem State.advance_fetchedAt : (s.advance).fetchedAt = s.fetchedAt := rfl
@[simp] theorem State.advance_inputs : (s.advance).inputs = s.inputs := rfl
@[simp] theorem State.advance_between : (s.advance).between = s.between := rfl
@[simp] theorem State.advance_tick : (s.advance).tick = s.tick := rfl
@[simp] theorem State.advance_regs : (s.advance).regs = s.regs := rfl
@[simp] theorem State.advance_reg (q : Reg) : (s.advance).reg q = s.reg q := rfl
@[simp] theorem State.advance_t : (s.advance).t = s.t := rfl
@[simp] theorem State.advance_sBit : (s.advance).sBit = s.sBit := rfl
@[simp] theorem State.advance_q : (s.advance).q = s.q := rfl
@[simp] theorem State.advance_m : (s.advance).m = s.m := rfl
@[simp] theorem State.advance_imask : (s.advance).imask = s.imask := rfl
@[simp] theorem State.advance_srValue : (s.advance).srValue = s.srValue := rfl
@[simp] theorem State.advance_mac : (s.advance).mac = s.mac := rfl
@[simp] theorem State.advance_kindAt (x : Word) : (s.advance).kindAt x = s.kindAt x := rfl
@[simp] theorem State.advance_byteAt (k : Nat) (x : Word) : (s.advance).byteAt k x = s.byteAt k x := rfl
@[simp] theorem State.advance_mapped (sz : Size) (x : Word) : (s.advance).mapped sz x = s.mapped sz x := rfl
@[simp] theorem State.advance_writable (sz : Size) (x : Word) : (s.advance).writable sz x = s.writable sz x := rfl
@[simp] theorem State.advance_readValue (k : Nat) (sz : Size) (x : Word) : (s.advance).readValue k sz x = s.readValue k sz x := rfl

/-! ### `branchDelayed` -/

@[simp] theorem State.branchDelayed_sr (a : Word) : (s.branchDelayed a).sr = s.sr := rfl
@[simp] theorem State.branchDelayed_gbr (a : Word) : (s.branchDelayed a).gbr = s.gbr := rfl
@[simp] theorem State.branchDelayed_vbr (a : Word) : (s.branchDelayed a).vbr = s.vbr := rfl
@[simp] theorem State.branchDelayed_mach (a : Word) : (s.branchDelayed a).mach = s.mach := rfl
@[simp] theorem State.branchDelayed_macl (a : Word) : (s.branchDelayed a).macl = s.macl := rfl
@[simp] theorem State.branchDelayed_pr (a : Word) : (s.branchDelayed a).pr = s.pr := rfl
@[simp] theorem State.branchDelayed_pc (a : Word) : (s.branchDelayed a).pc = s.pc + 2 := rfl
@[simp] theorem State.branchDelayed_delay (a : Word) : (s.branchDelayed a).delay = some a := rfl
@[simp] theorem State.branchDelayed_mode (a : Word) : (s.branchDelayed a).mode = s.mode := rfl
@[simp] theorem State.branchDelayed_multSinceMach (a : Word) : (s.branchDelayed a).multSinceMach = s.multSinceMach := rfl
@[simp] theorem State.branchDelayed_multSinceMacl (a : Word) : (s.branchDelayed a).multSinceMacl = s.multSinceMacl := rfl
@[simp] theorem State.branchDelayed_platform (a : Word) : (s.branchDelayed a).platform = s.platform := rfl
@[simp] theorem State.branchDelayed_mem (a : Word) : (s.branchDelayed a).mem = s.mem := rfl
@[simp] theorem State.branchDelayed_map (a : Word) : (s.branchDelayed a).map = s.map := rfl
@[simp] theorem State.branchDelayed_storedAt (a : Word) : (s.branchDelayed a).storedAt = s.storedAt := rfl
@[simp] theorem State.branchDelayed_fetchedAt (a : Word) : (s.branchDelayed a).fetchedAt = s.fetchedAt := rfl
@[simp] theorem State.branchDelayed_inputs (a : Word) : (s.branchDelayed a).inputs = s.inputs := rfl
@[simp] theorem State.branchDelayed_between (a : Word) : (s.branchDelayed a).between = s.between := rfl
@[simp] theorem State.branchDelayed_tick (a : Word) : (s.branchDelayed a).tick = s.tick := rfl
@[simp] theorem State.branchDelayed_regs (a : Word) : (s.branchDelayed a).regs = s.regs := rfl
@[simp] theorem State.branchDelayed_reg (a : Word) (q : Reg) : (s.branchDelayed a).reg q = s.reg q := rfl
@[simp] theorem State.branchDelayed_t (a : Word) : (s.branchDelayed a).t = s.t := rfl
@[simp] theorem State.branchDelayed_sBit (a : Word) : (s.branchDelayed a).sBit = s.sBit := rfl
@[simp] theorem State.branchDelayed_q (a : Word) : (s.branchDelayed a).q = s.q := rfl
@[simp] theorem State.branchDelayed_m (a : Word) : (s.branchDelayed a).m = s.m := rfl
@[simp] theorem State.branchDelayed_imask (a : Word) : (s.branchDelayed a).imask = s.imask := rfl
@[simp] theorem State.branchDelayed_srValue (a : Word) : (s.branchDelayed a).srValue = s.srValue := rfl
@[simp] theorem State.branchDelayed_mac (a : Word) : (s.branchDelayed a).mac = s.mac := rfl
@[simp] theorem State.branchDelayed_kindAt (a : Word) (x : Word) : (s.branchDelayed a).kindAt x = s.kindAt x := rfl
@[simp] theorem State.branchDelayed_byteAt (a : Word) (k : Nat) (x : Word) : (s.branchDelayed a).byteAt k x = s.byteAt k x := rfl
@[simp] theorem State.branchDelayed_mapped (a : Word) (sz : Size) (x : Word) : (s.branchDelayed a).mapped sz x = s.mapped sz x := rfl
@[simp] theorem State.branchDelayed_writable (a : Word) (sz : Size) (x : Word) : (s.branchDelayed a).writable sz x = s.writable sz x := rfl
@[simp] theorem State.branchDelayed_readValue (a : Word) (k : Nat) (sz : Size) (x : Word) : (s.branchDelayed a).readValue k sz x = s.readValue k sz x := rfl

/-! ### `link` -/

@[simp] theorem State.link_sr : (s.link).sr = s.sr := rfl
@[simp] theorem State.link_gbr : (s.link).gbr = s.gbr := rfl
@[simp] theorem State.link_vbr : (s.link).vbr = s.vbr := rfl
@[simp] theorem State.link_mach : (s.link).mach = s.mach := rfl
@[simp] theorem State.link_macl : (s.link).macl = s.macl := rfl
@[simp] theorem State.link_pr : (s.link).pr = s.pcValue := rfl
@[simp] theorem State.link_pc : (s.link).pc = s.pc := rfl
@[simp] theorem State.link_delay : (s.link).delay = s.delay := rfl
@[simp] theorem State.link_mode : (s.link).mode = s.mode := rfl
@[simp] theorem State.link_multSinceMach : (s.link).multSinceMach = s.multSinceMach := rfl
@[simp] theorem State.link_multSinceMacl : (s.link).multSinceMacl = s.multSinceMacl := rfl
@[simp] theorem State.link_platform : (s.link).platform = s.platform := rfl
@[simp] theorem State.link_mem : (s.link).mem = s.mem := rfl
@[simp] theorem State.link_map : (s.link).map = s.map := rfl
@[simp] theorem State.link_storedAt : (s.link).storedAt = s.storedAt := rfl
@[simp] theorem State.link_fetchedAt : (s.link).fetchedAt = s.fetchedAt := rfl
@[simp] theorem State.link_inputs : (s.link).inputs = s.inputs := rfl
@[simp] theorem State.link_between : (s.link).between = s.between := rfl
@[simp] theorem State.link_tick : (s.link).tick = s.tick := rfl
@[simp] theorem State.link_regs : (s.link).regs = s.regs := rfl
@[simp] theorem State.link_reg (q : Reg) : (s.link).reg q = s.reg q := rfl
@[simp] theorem State.link_t : (s.link).t = s.t := rfl
@[simp] theorem State.link_sBit : (s.link).sBit = s.sBit := rfl
@[simp] theorem State.link_q : (s.link).q = s.q := rfl
@[simp] theorem State.link_m : (s.link).m = s.m := rfl
@[simp] theorem State.link_imask : (s.link).imask = s.imask := rfl
@[simp] theorem State.link_srValue : (s.link).srValue = s.srValue := rfl
@[simp] theorem State.link_mac : (s.link).mac = s.mac := rfl
@[simp] theorem State.link_nextPc : (s.link).nextPc = s.nextPc := rfl
@[simp] theorem State.link_pcValue : (s.link).pcValue = s.pcValue := rfl
@[simp] theorem State.link_kindAt (x : Word) : (s.link).kindAt x = s.kindAt x := rfl
@[simp] theorem State.link_byteAt (k : Nat) (x : Word) : (s.link).byteAt k x = s.byteAt k x := rfl
@[simp] theorem State.link_mapped (sz : Size) (x : Word) : (s.link).mapped sz x = s.mapped sz x := rfl
@[simp] theorem State.link_writable (sz : Size) (x : Word) : (s.link).writable sz x = s.writable sz x := rfl
@[simp] theorem State.link_readValue (k : Nat) (sz : Size) (x : Word) : (s.link).readValue k sz x = s.readValue k sz x := rfl

/-! ### `setGbr` -/

@[simp] theorem State.setGbr_sr (v : Word) : (s.setGbr v).sr = s.sr := rfl
@[simp] theorem State.setGbr_gbr (v : Word) : (s.setGbr v).gbr = v := rfl
@[simp] theorem State.setGbr_vbr (v : Word) : (s.setGbr v).vbr = s.vbr := rfl
@[simp] theorem State.setGbr_mach (v : Word) : (s.setGbr v).mach = s.mach := rfl
@[simp] theorem State.setGbr_macl (v : Word) : (s.setGbr v).macl = s.macl := rfl
@[simp] theorem State.setGbr_pr (v : Word) : (s.setGbr v).pr = s.pr := rfl
@[simp] theorem State.setGbr_pc (v : Word) : (s.setGbr v).pc = s.pc := rfl
@[simp] theorem State.setGbr_delay (v : Word) : (s.setGbr v).delay = s.delay := rfl
@[simp] theorem State.setGbr_mode (v : Word) : (s.setGbr v).mode = s.mode := rfl
@[simp] theorem State.setGbr_multSinceMach (v : Word) : (s.setGbr v).multSinceMach = s.multSinceMach := rfl
@[simp] theorem State.setGbr_multSinceMacl (v : Word) : (s.setGbr v).multSinceMacl = s.multSinceMacl := rfl
@[simp] theorem State.setGbr_platform (v : Word) : (s.setGbr v).platform = s.platform := rfl
@[simp] theorem State.setGbr_mem (v : Word) : (s.setGbr v).mem = s.mem := rfl
@[simp] theorem State.setGbr_map (v : Word) : (s.setGbr v).map = s.map := rfl
@[simp] theorem State.setGbr_storedAt (v : Word) : (s.setGbr v).storedAt = s.storedAt := rfl
@[simp] theorem State.setGbr_fetchedAt (v : Word) : (s.setGbr v).fetchedAt = s.fetchedAt := rfl
@[simp] theorem State.setGbr_inputs (v : Word) : (s.setGbr v).inputs = s.inputs := rfl
@[simp] theorem State.setGbr_between (v : Word) : (s.setGbr v).between = s.between := rfl
@[simp] theorem State.setGbr_tick (v : Word) : (s.setGbr v).tick = s.tick := rfl
@[simp] theorem State.setGbr_regs (v : Word) : (s.setGbr v).regs = s.regs := rfl
@[simp] theorem State.setGbr_reg (v : Word) (q : Reg) : (s.setGbr v).reg q = s.reg q := rfl
@[simp] theorem State.setGbr_t (v : Word) : (s.setGbr v).t = s.t := rfl
@[simp] theorem State.setGbr_sBit (v : Word) : (s.setGbr v).sBit = s.sBit := rfl
@[simp] theorem State.setGbr_q (v : Word) : (s.setGbr v).q = s.q := rfl
@[simp] theorem State.setGbr_m (v : Word) : (s.setGbr v).m = s.m := rfl
@[simp] theorem State.setGbr_imask (v : Word) : (s.setGbr v).imask = s.imask := rfl
@[simp] theorem State.setGbr_srValue (v : Word) : (s.setGbr v).srValue = s.srValue := rfl
@[simp] theorem State.setGbr_mac (v : Word) : (s.setGbr v).mac = s.mac := rfl
@[simp] theorem State.setGbr_nextPc (v : Word) : (s.setGbr v).nextPc = s.nextPc := rfl
@[simp] theorem State.setGbr_pcValue (v : Word) : (s.setGbr v).pcValue = s.pcValue := rfl
@[simp] theorem State.setGbr_kindAt (v : Word) (x : Word) : (s.setGbr v).kindAt x = s.kindAt x := rfl
@[simp] theorem State.setGbr_byteAt (v : Word) (k : Nat) (x : Word) : (s.setGbr v).byteAt k x = s.byteAt k x := rfl
@[simp] theorem State.setGbr_mapped (v : Word) (sz : Size) (x : Word) : (s.setGbr v).mapped sz x = s.mapped sz x := rfl
@[simp] theorem State.setGbr_writable (v : Word) (sz : Size) (x : Word) : (s.setGbr v).writable sz x = s.writable sz x := rfl
@[simp] theorem State.setGbr_readValue (v : Word) (k : Nat) (sz : Size) (x : Word) : (s.setGbr v).readValue k sz x = s.readValue k sz x := rfl

/-! ### `setVbr` -/

@[simp] theorem State.setVbr_sr (v : Word) : (s.setVbr v).sr = s.sr := rfl
@[simp] theorem State.setVbr_gbr (v : Word) : (s.setVbr v).gbr = s.gbr := rfl
@[simp] theorem State.setVbr_vbr (v : Word) : (s.setVbr v).vbr = v := rfl
@[simp] theorem State.setVbr_mach (v : Word) : (s.setVbr v).mach = s.mach := rfl
@[simp] theorem State.setVbr_macl (v : Word) : (s.setVbr v).macl = s.macl := rfl
@[simp] theorem State.setVbr_pr (v : Word) : (s.setVbr v).pr = s.pr := rfl
@[simp] theorem State.setVbr_pc (v : Word) : (s.setVbr v).pc = s.pc := rfl
@[simp] theorem State.setVbr_delay (v : Word) : (s.setVbr v).delay = s.delay := rfl
@[simp] theorem State.setVbr_mode (v : Word) : (s.setVbr v).mode = s.mode := rfl
@[simp] theorem State.setVbr_multSinceMach (v : Word) : (s.setVbr v).multSinceMach = s.multSinceMach := rfl
@[simp] theorem State.setVbr_multSinceMacl (v : Word) : (s.setVbr v).multSinceMacl = s.multSinceMacl := rfl
@[simp] theorem State.setVbr_platform (v : Word) : (s.setVbr v).platform = s.platform := rfl
@[simp] theorem State.setVbr_mem (v : Word) : (s.setVbr v).mem = s.mem := rfl
@[simp] theorem State.setVbr_map (v : Word) : (s.setVbr v).map = s.map := rfl
@[simp] theorem State.setVbr_storedAt (v : Word) : (s.setVbr v).storedAt = s.storedAt := rfl
@[simp] theorem State.setVbr_fetchedAt (v : Word) : (s.setVbr v).fetchedAt = s.fetchedAt := rfl
@[simp] theorem State.setVbr_inputs (v : Word) : (s.setVbr v).inputs = s.inputs := rfl
@[simp] theorem State.setVbr_between (v : Word) : (s.setVbr v).between = s.between := rfl
@[simp] theorem State.setVbr_tick (v : Word) : (s.setVbr v).tick = s.tick := rfl
@[simp] theorem State.setVbr_regs (v : Word) : (s.setVbr v).regs = s.regs := rfl
@[simp] theorem State.setVbr_reg (v : Word) (q : Reg) : (s.setVbr v).reg q = s.reg q := rfl
@[simp] theorem State.setVbr_t (v : Word) : (s.setVbr v).t = s.t := rfl
@[simp] theorem State.setVbr_sBit (v : Word) : (s.setVbr v).sBit = s.sBit := rfl
@[simp] theorem State.setVbr_q (v : Word) : (s.setVbr v).q = s.q := rfl
@[simp] theorem State.setVbr_m (v : Word) : (s.setVbr v).m = s.m := rfl
@[simp] theorem State.setVbr_imask (v : Word) : (s.setVbr v).imask = s.imask := rfl
@[simp] theorem State.setVbr_srValue (v : Word) : (s.setVbr v).srValue = s.srValue := rfl
@[simp] theorem State.setVbr_mac (v : Word) : (s.setVbr v).mac = s.mac := rfl
@[simp] theorem State.setVbr_nextPc (v : Word) : (s.setVbr v).nextPc = s.nextPc := rfl
@[simp] theorem State.setVbr_pcValue (v : Word) : (s.setVbr v).pcValue = s.pcValue := rfl
@[simp] theorem State.setVbr_kindAt (v : Word) (x : Word) : (s.setVbr v).kindAt x = s.kindAt x := rfl
@[simp] theorem State.setVbr_byteAt (v : Word) (k : Nat) (x : Word) : (s.setVbr v).byteAt k x = s.byteAt k x := rfl
@[simp] theorem State.setVbr_mapped (v : Word) (sz : Size) (x : Word) : (s.setVbr v).mapped sz x = s.mapped sz x := rfl
@[simp] theorem State.setVbr_writable (v : Word) (sz : Size) (x : Word) : (s.setVbr v).writable sz x = s.writable sz x := rfl
@[simp] theorem State.setVbr_readValue (v : Word) (k : Nat) (sz : Size) (x : Word) : (s.setVbr v).readValue k sz x = s.readValue k sz x := rfl

/-! ### `setPr` -/

@[simp] theorem State.setPr_sr (v : Word) : (s.setPr v).sr = s.sr := rfl
@[simp] theorem State.setPr_gbr (v : Word) : (s.setPr v).gbr = s.gbr := rfl
@[simp] theorem State.setPr_vbr (v : Word) : (s.setPr v).vbr = s.vbr := rfl
@[simp] theorem State.setPr_mach (v : Word) : (s.setPr v).mach = s.mach := rfl
@[simp] theorem State.setPr_macl (v : Word) : (s.setPr v).macl = s.macl := rfl
@[simp] theorem State.setPr_pr (v : Word) : (s.setPr v).pr = v := rfl
@[simp] theorem State.setPr_pc (v : Word) : (s.setPr v).pc = s.pc := rfl
@[simp] theorem State.setPr_delay (v : Word) : (s.setPr v).delay = s.delay := rfl
@[simp] theorem State.setPr_mode (v : Word) : (s.setPr v).mode = s.mode := rfl
@[simp] theorem State.setPr_multSinceMach (v : Word) : (s.setPr v).multSinceMach = s.multSinceMach := rfl
@[simp] theorem State.setPr_multSinceMacl (v : Word) : (s.setPr v).multSinceMacl = s.multSinceMacl := rfl
@[simp] theorem State.setPr_platform (v : Word) : (s.setPr v).platform = s.platform := rfl
@[simp] theorem State.setPr_mem (v : Word) : (s.setPr v).mem = s.mem := rfl
@[simp] theorem State.setPr_map (v : Word) : (s.setPr v).map = s.map := rfl
@[simp] theorem State.setPr_storedAt (v : Word) : (s.setPr v).storedAt = s.storedAt := rfl
@[simp] theorem State.setPr_fetchedAt (v : Word) : (s.setPr v).fetchedAt = s.fetchedAt := rfl
@[simp] theorem State.setPr_inputs (v : Word) : (s.setPr v).inputs = s.inputs := rfl
@[simp] theorem State.setPr_between (v : Word) : (s.setPr v).between = s.between := rfl
@[simp] theorem State.setPr_tick (v : Word) : (s.setPr v).tick = s.tick := rfl
@[simp] theorem State.setPr_regs (v : Word) : (s.setPr v).regs = s.regs := rfl
@[simp] theorem State.setPr_reg (v : Word) (q : Reg) : (s.setPr v).reg q = s.reg q := rfl
@[simp] theorem State.setPr_t (v : Word) : (s.setPr v).t = s.t := rfl
@[simp] theorem State.setPr_sBit (v : Word) : (s.setPr v).sBit = s.sBit := rfl
@[simp] theorem State.setPr_q (v : Word) : (s.setPr v).q = s.q := rfl
@[simp] theorem State.setPr_m (v : Word) : (s.setPr v).m = s.m := rfl
@[simp] theorem State.setPr_imask (v : Word) : (s.setPr v).imask = s.imask := rfl
@[simp] theorem State.setPr_srValue (v : Word) : (s.setPr v).srValue = s.srValue := rfl
@[simp] theorem State.setPr_mac (v : Word) : (s.setPr v).mac = s.mac := rfl
@[simp] theorem State.setPr_nextPc (v : Word) : (s.setPr v).nextPc = s.nextPc := rfl
@[simp] theorem State.setPr_pcValue (v : Word) : (s.setPr v).pcValue = s.pcValue := rfl
@[simp] theorem State.setPr_kindAt (v : Word) (x : Word) : (s.setPr v).kindAt x = s.kindAt x := rfl
@[simp] theorem State.setPr_byteAt (v : Word) (k : Nat) (x : Word) : (s.setPr v).byteAt k x = s.byteAt k x := rfl
@[simp] theorem State.setPr_mapped (v : Word) (sz : Size) (x : Word) : (s.setPr v).mapped sz x = s.mapped sz x := rfl
@[simp] theorem State.setPr_writable (v : Word) (sz : Size) (x : Word) : (s.setPr v).writable sz x = s.writable sz x := rfl
@[simp] theorem State.setPr_readValue (v : Word) (k : Nat) (sz : Size) (x : Word) : (s.setPr v).readValue k sz x = s.readValue k sz x := rfl

/-! ### `setMach` -/

@[simp] theorem State.setMach_sr (v : Word) : (s.setMach v).sr = s.sr := rfl
@[simp] theorem State.setMach_gbr (v : Word) : (s.setMach v).gbr = s.gbr := rfl
@[simp] theorem State.setMach_vbr (v : Word) : (s.setMach v).vbr = s.vbr := rfl
@[simp] theorem State.setMach_mach (v : Word) : (s.setMach v).mach = v := rfl
@[simp] theorem State.setMach_macl (v : Word) : (s.setMach v).macl = s.macl := rfl
@[simp] theorem State.setMach_pr (v : Word) : (s.setMach v).pr = s.pr := rfl
@[simp] theorem State.setMach_pc (v : Word) : (s.setMach v).pc = s.pc := rfl
@[simp] theorem State.setMach_delay (v : Word) : (s.setMach v).delay = s.delay := rfl
@[simp] theorem State.setMach_mode (v : Word) : (s.setMach v).mode = s.mode := rfl
@[simp] theorem State.setMach_multSinceMach (v : Word) : (s.setMach v).multSinceMach = false := rfl
@[simp] theorem State.setMach_multSinceMacl (v : Word) : (s.setMach v).multSinceMacl = s.multSinceMacl := rfl
@[simp] theorem State.setMach_platform (v : Word) : (s.setMach v).platform = s.platform := rfl
@[simp] theorem State.setMach_mem (v : Word) : (s.setMach v).mem = s.mem := rfl
@[simp] theorem State.setMach_map (v : Word) : (s.setMach v).map = s.map := rfl
@[simp] theorem State.setMach_storedAt (v : Word) : (s.setMach v).storedAt = s.storedAt := rfl
@[simp] theorem State.setMach_fetchedAt (v : Word) : (s.setMach v).fetchedAt = s.fetchedAt := rfl
@[simp] theorem State.setMach_inputs (v : Word) : (s.setMach v).inputs = s.inputs := rfl
@[simp] theorem State.setMach_between (v : Word) : (s.setMach v).between = s.between := rfl
@[simp] theorem State.setMach_tick (v : Word) : (s.setMach v).tick = s.tick := rfl
@[simp] theorem State.setMach_regs (v : Word) : (s.setMach v).regs = s.regs := rfl
@[simp] theorem State.setMach_reg (v : Word) (q : Reg) : (s.setMach v).reg q = s.reg q := rfl
@[simp] theorem State.setMach_t (v : Word) : (s.setMach v).t = s.t := rfl
@[simp] theorem State.setMach_sBit (v : Word) : (s.setMach v).sBit = s.sBit := rfl
@[simp] theorem State.setMach_q (v : Word) : (s.setMach v).q = s.q := rfl
@[simp] theorem State.setMach_m (v : Word) : (s.setMach v).m = s.m := rfl
@[simp] theorem State.setMach_imask (v : Word) : (s.setMach v).imask = s.imask := rfl
@[simp] theorem State.setMach_srValue (v : Word) : (s.setMach v).srValue = s.srValue := rfl
@[simp] theorem State.setMach_nextPc (v : Word) : (s.setMach v).nextPc = s.nextPc := rfl
@[simp] theorem State.setMach_pcValue (v : Word) : (s.setMach v).pcValue = s.pcValue := rfl
@[simp] theorem State.setMach_kindAt (v : Word) (x : Word) : (s.setMach v).kindAt x = s.kindAt x := rfl
@[simp] theorem State.setMach_byteAt (v : Word) (k : Nat) (x : Word) : (s.setMach v).byteAt k x = s.byteAt k x := rfl
@[simp] theorem State.setMach_mapped (v : Word) (sz : Size) (x : Word) : (s.setMach v).mapped sz x = s.mapped sz x := rfl
@[simp] theorem State.setMach_writable (v : Word) (sz : Size) (x : Word) : (s.setMach v).writable sz x = s.writable sz x := rfl
@[simp] theorem State.setMach_readValue (v : Word) (k : Nat) (sz : Size) (x : Word) : (s.setMach v).readValue k sz x = s.readValue k sz x := rfl

/-! ### `setMacl` -/

@[simp] theorem State.setMacl_sr (v : Word) : (s.setMacl v).sr = s.sr := rfl
@[simp] theorem State.setMacl_gbr (v : Word) : (s.setMacl v).gbr = s.gbr := rfl
@[simp] theorem State.setMacl_vbr (v : Word) : (s.setMacl v).vbr = s.vbr := rfl
@[simp] theorem State.setMacl_mach (v : Word) : (s.setMacl v).mach = s.mach := rfl
@[simp] theorem State.setMacl_macl (v : Word) : (s.setMacl v).macl = v := rfl
@[simp] theorem State.setMacl_pr (v : Word) : (s.setMacl v).pr = s.pr := rfl
@[simp] theorem State.setMacl_pc (v : Word) : (s.setMacl v).pc = s.pc := rfl
@[simp] theorem State.setMacl_delay (v : Word) : (s.setMacl v).delay = s.delay := rfl
@[simp] theorem State.setMacl_mode (v : Word) : (s.setMacl v).mode = s.mode := rfl
@[simp] theorem State.setMacl_multSinceMach (v : Word) : (s.setMacl v).multSinceMach = s.multSinceMach := rfl
@[simp] theorem State.setMacl_multSinceMacl (v : Word) : (s.setMacl v).multSinceMacl = false := rfl
@[simp] theorem State.setMacl_platform (v : Word) : (s.setMacl v).platform = s.platform := rfl
@[simp] theorem State.setMacl_mem (v : Word) : (s.setMacl v).mem = s.mem := rfl
@[simp] theorem State.setMacl_map (v : Word) : (s.setMacl v).map = s.map := rfl
@[simp] theorem State.setMacl_storedAt (v : Word) : (s.setMacl v).storedAt = s.storedAt := rfl
@[simp] theorem State.setMacl_fetchedAt (v : Word) : (s.setMacl v).fetchedAt = s.fetchedAt := rfl
@[simp] theorem State.setMacl_inputs (v : Word) : (s.setMacl v).inputs = s.inputs := rfl
@[simp] theorem State.setMacl_between (v : Word) : (s.setMacl v).between = s.between := rfl
@[simp] theorem State.setMacl_tick (v : Word) : (s.setMacl v).tick = s.tick := rfl
@[simp] theorem State.setMacl_regs (v : Word) : (s.setMacl v).regs = s.regs := rfl
@[simp] theorem State.setMacl_reg (v : Word) (q : Reg) : (s.setMacl v).reg q = s.reg q := rfl
@[simp] theorem State.setMacl_t (v : Word) : (s.setMacl v).t = s.t := rfl
@[simp] theorem State.setMacl_sBit (v : Word) : (s.setMacl v).sBit = s.sBit := rfl
@[simp] theorem State.setMacl_q (v : Word) : (s.setMacl v).q = s.q := rfl
@[simp] theorem State.setMacl_m (v : Word) : (s.setMacl v).m = s.m := rfl
@[simp] theorem State.setMacl_imask (v : Word) : (s.setMacl v).imask = s.imask := rfl
@[simp] theorem State.setMacl_srValue (v : Word) : (s.setMacl v).srValue = s.srValue := rfl
@[simp] theorem State.setMacl_nextPc (v : Word) : (s.setMacl v).nextPc = s.nextPc := rfl
@[simp] theorem State.setMacl_pcValue (v : Word) : (s.setMacl v).pcValue = s.pcValue := rfl
@[simp] theorem State.setMacl_kindAt (v : Word) (x : Word) : (s.setMacl v).kindAt x = s.kindAt x := rfl
@[simp] theorem State.setMacl_byteAt (v : Word) (k : Nat) (x : Word) : (s.setMacl v).byteAt k x = s.byteAt k x := rfl
@[simp] theorem State.setMacl_mapped (v : Word) (sz : Size) (x : Word) : (s.setMacl v).mapped sz x = s.mapped sz x := rfl
@[simp] theorem State.setMacl_writable (v : Word) (sz : Size) (x : Word) : (s.setMacl v).writable sz x = s.writable sz x := rfl
@[simp] theorem State.setMacl_readValue (v : Word) (k : Nat) (sz : Size) (x : Word) : (s.setMacl v).readValue k sz x = s.readValue k sz x := rfl

/-! ### `arbitrate` -/

@[simp] theorem State.arbitrate_sr : (s.arbitrate).sr = s.sr := rfl
@[simp] theorem State.arbitrate_gbr : (s.arbitrate).gbr = s.gbr := rfl
@[simp] theorem State.arbitrate_vbr : (s.arbitrate).vbr = s.vbr := rfl
@[simp] theorem State.arbitrate_mach : (s.arbitrate).mach = s.mach := rfl
@[simp] theorem State.arbitrate_macl : (s.arbitrate).macl = s.macl := rfl
@[simp] theorem State.arbitrate_pr : (s.arbitrate).pr = s.pr := rfl
@[simp] theorem State.arbitrate_pc : (s.arbitrate).pc = s.pc := rfl
@[simp] theorem State.arbitrate_delay : (s.arbitrate).delay = s.delay := rfl
@[simp] theorem State.arbitrate_mode : (s.arbitrate).mode = s.mode := rfl
@[simp] theorem State.arbitrate_multSinceMach : (s.arbitrate).multSinceMach = s.multSinceMach := rfl
@[simp] theorem State.arbitrate_multSinceMacl : (s.arbitrate).multSinceMacl = s.multSinceMacl := rfl
@[simp] theorem State.arbitrate_platform : (s.arbitrate).platform = s.platform := rfl
@[simp] theorem State.arbitrate_map : (s.arbitrate).map = s.map := rfl
@[simp] theorem State.arbitrate_fetchedAt : (s.arbitrate).fetchedAt = s.fetchedAt := rfl
@[simp] theorem State.arbitrate_inputs : (s.arbitrate).inputs = s.inputs := rfl
@[simp] theorem State.arbitrate_between : (s.arbitrate).between = s.between.tail := rfl
@[simp] theorem State.arbitrate_tick : (s.arbitrate).tick = s.tick := rfl
@[simp] theorem State.arbitrate_regs : (s.arbitrate).regs = s.regs := rfl
@[simp] theorem State.arbitrate_reg (q : Reg) : (s.arbitrate).reg q = s.reg q := rfl
@[simp] theorem State.arbitrate_t : (s.arbitrate).t = s.t := rfl
@[simp] theorem State.arbitrate_sBit : (s.arbitrate).sBit = s.sBit := rfl
@[simp] theorem State.arbitrate_q : (s.arbitrate).q = s.q := rfl
@[simp] theorem State.arbitrate_m : (s.arbitrate).m = s.m := rfl
@[simp] theorem State.arbitrate_imask : (s.arbitrate).imask = s.imask := rfl
@[simp] theorem State.arbitrate_srValue : (s.arbitrate).srValue = s.srValue := rfl
@[simp] theorem State.arbitrate_mac : (s.arbitrate).mac = s.mac := rfl
@[simp] theorem State.arbitrate_nextPc : (s.arbitrate).nextPc = s.nextPc := rfl
@[simp] theorem State.arbitrate_pcValue : (s.arbitrate).pcValue = s.pcValue := rfl
@[simp] theorem State.arbitrate_kindAt (x : Word) : (s.arbitrate).kindAt x = s.kindAt x := rfl
@[simp] theorem State.arbitrate_mapped (sz : Size) (x : Word) : (s.arbitrate).mapped sz x = s.mapped sz x := rfl
@[simp] theorem State.arbitrate_writable (sz : Size) (x : Word) : (s.arbitrate).writable sz x = s.writable sz x := rfl

/-! ### `markFetched` -/

@[simp] theorem State.markFetched_sr : (s.markFetched).sr = s.sr := rfl
@[simp] theorem State.markFetched_gbr : (s.markFetched).gbr = s.gbr := rfl
@[simp] theorem State.markFetched_vbr : (s.markFetched).vbr = s.vbr := rfl
@[simp] theorem State.markFetched_mach : (s.markFetched).mach = s.mach := rfl
@[simp] theorem State.markFetched_macl : (s.markFetched).macl = s.macl := rfl
@[simp] theorem State.markFetched_pr : (s.markFetched).pr = s.pr := rfl
@[simp] theorem State.markFetched_pc : (s.markFetched).pc = s.pc := rfl
@[simp] theorem State.markFetched_delay : (s.markFetched).delay = s.delay := rfl
@[simp] theorem State.markFetched_mode : (s.markFetched).mode = s.mode := rfl
@[simp] theorem State.markFetched_multSinceMach : (s.markFetched).multSinceMach = s.multSinceMach := rfl
@[simp] theorem State.markFetched_multSinceMacl : (s.markFetched).multSinceMacl = s.multSinceMacl := rfl
@[simp] theorem State.markFetched_platform : (s.markFetched).platform = s.platform := rfl
@[simp] theorem State.markFetched_mem : (s.markFetched).mem = s.mem := rfl
@[simp] theorem State.markFetched_map : (s.markFetched).map = s.map := rfl
@[simp] theorem State.markFetched_storedAt : (s.markFetched).storedAt = s.storedAt := rfl
@[simp] theorem State.markFetched_fetchedAt : (s.markFetched).fetchedAt = AddressSet.insertAll s.fetchedAt (span .word s.pc) := rfl
@[simp] theorem State.markFetched_inputs : (s.markFetched).inputs = s.inputs := rfl
@[simp] theorem State.markFetched_between : (s.markFetched).between = s.between := rfl
@[simp] theorem State.markFetched_tick : (s.markFetched).tick = s.tick := rfl
@[simp] theorem State.markFetched_regs : (s.markFetched).regs = s.regs := rfl
@[simp] theorem State.markFetched_reg (q : Reg) : (s.markFetched).reg q = s.reg q := rfl
@[simp] theorem State.markFetched_t : (s.markFetched).t = s.t := rfl
@[simp] theorem State.markFetched_sBit : (s.markFetched).sBit = s.sBit := rfl
@[simp] theorem State.markFetched_q : (s.markFetched).q = s.q := rfl
@[simp] theorem State.markFetched_m : (s.markFetched).m = s.m := rfl
@[simp] theorem State.markFetched_imask : (s.markFetched).imask = s.imask := rfl
@[simp] theorem State.markFetched_srValue : (s.markFetched).srValue = s.srValue := rfl
@[simp] theorem State.markFetched_mac : (s.markFetched).mac = s.mac := rfl
@[simp] theorem State.markFetched_nextPc : (s.markFetched).nextPc = s.nextPc := rfl
@[simp] theorem State.markFetched_pcValue : (s.markFetched).pcValue = s.pcValue := rfl
@[simp] theorem State.markFetched_kindAt (x : Word) : (s.markFetched).kindAt x = s.kindAt x := rfl
@[simp] theorem State.markFetched_byteAt (k : Nat) (x : Word) : (s.markFetched).byteAt k x = s.byteAt k x := rfl
@[simp] theorem State.markFetched_mapped (sz : Size) (x : Word) : (s.markFetched).mapped sz x = s.mapped sz x := rfl
@[simp] theorem State.markFetched_writable (sz : Size) (x : Word) : (s.markFetched).writable sz x = s.writable sz x := rfl
@[simp] theorem State.markFetched_readValue (k : Nat) (sz : Size) (x : Word) : (s.markFetched).readValue k sz x = s.readValue k sz x := rfl

/-- Others' writes before an access take an entry of the script, if one is left. -/
theorem State.arbitrate_mem : s.arbitrate.mem = Memory.putAll s.mem (s.between.headD []) := rfl

/-- With no entry left no other master writes. -/
theorem State.arbitrate_eq_self {s : State} (h : s.between = []) : s.arbitrate = s := by
  cases s; subst h; rfl

/-! ### General registers -/

/-- Reading any register after writing one. -/
@[simp] theorem State.setReg_reg (r : Reg) (v : Word) (q : Reg) :
    (s.setReg r v).reg q = if q = r then v else s.reg q := by
  simp [State.reg, State.setReg, Vector.getElem_set, Fin.ext_iff, eq_comm]

/-- The later write of one register wins. -/
theorem State.setReg_setReg (r : Reg) (v w : Word) : (s.setReg r v).setReg r w = s.setReg r w := by
  simp [State.setReg]

/-! ### Base register after a misaligned access -/

/-- The base holds the old value or the updated one (U2). -/
theorem State.baseAfterError_cases (k : Nat) (r : Reg) (u : Word) :
    s.baseAfterError k r u = s ∨ s.baseAfterError k r u = s.setReg r u := by
  unfold State.baseAfterError
  split
  · exact .inr rfl
  · exact .inl rfl

@[simp] theorem State.baseAfterError_sr (k : Nat) (r : Reg) (u : Word) : (s.baseAfterError k r u).sr = s.sr := by
  rcases s.baseAfterError_cases k r u with h | h <;> simp [h]
@[simp] theorem State.baseAfterError_gbr (k : Nat) (r : Reg) (u : Word) : (s.baseAfterError k r u).gbr = s.gbr := by
  rcases s.baseAfterError_cases k r u with h | h <;> simp [h]
@[simp] theorem State.baseAfterError_vbr (k : Nat) (r : Reg) (u : Word) : (s.baseAfterError k r u).vbr = s.vbr := by
  rcases s.baseAfterError_cases k r u with h | h <;> simp [h]
@[simp] theorem State.baseAfterError_mach (k : Nat) (r : Reg) (u : Word) : (s.baseAfterError k r u).mach = s.mach := by
  rcases s.baseAfterError_cases k r u with h | h <;> simp [h]
@[simp] theorem State.baseAfterError_macl (k : Nat) (r : Reg) (u : Word) : (s.baseAfterError k r u).macl = s.macl := by
  rcases s.baseAfterError_cases k r u with h | h <;> simp [h]
@[simp] theorem State.baseAfterError_pr (k : Nat) (r : Reg) (u : Word) : (s.baseAfterError k r u).pr = s.pr := by
  rcases s.baseAfterError_cases k r u with h | h <;> simp [h]
@[simp] theorem State.baseAfterError_pc (k : Nat) (r : Reg) (u : Word) : (s.baseAfterError k r u).pc = s.pc := by
  rcases s.baseAfterError_cases k r u with h | h <;> simp [h]
@[simp] theorem State.baseAfterError_delay (k : Nat) (r : Reg) (u : Word) : (s.baseAfterError k r u).delay = s.delay := by
  rcases s.baseAfterError_cases k r u with h | h <;> simp [h]
@[simp] theorem State.baseAfterError_mode (k : Nat) (r : Reg) (u : Word) : (s.baseAfterError k r u).mode = s.mode := by
  rcases s.baseAfterError_cases k r u with h | h <;> simp [h]
@[simp] theorem State.baseAfterError_multSinceMach (k : Nat) (r : Reg) (u : Word) : (s.baseAfterError k r u).multSinceMach = s.multSinceMach := by
  rcases s.baseAfterError_cases k r u with h | h <;> simp [h]
@[simp] theorem State.baseAfterError_multSinceMacl (k : Nat) (r : Reg) (u : Word) : (s.baseAfterError k r u).multSinceMacl = s.multSinceMacl := by
  rcases s.baseAfterError_cases k r u with h | h <;> simp [h]
@[simp] theorem State.baseAfterError_platform (k : Nat) (r : Reg) (u : Word) : (s.baseAfterError k r u).platform = s.platform := by
  rcases s.baseAfterError_cases k r u with h | h <;> simp [h]
@[simp] theorem State.baseAfterError_mem (k : Nat) (r : Reg) (u : Word) : (s.baseAfterError k r u).mem = s.mem := by
  rcases s.baseAfterError_cases k r u with h | h <;> simp [h]
@[simp] theorem State.baseAfterError_map (k : Nat) (r : Reg) (u : Word) : (s.baseAfterError k r u).map = s.map := by
  rcases s.baseAfterError_cases k r u with h | h <;> simp [h]
@[simp] theorem State.baseAfterError_storedAt (k : Nat) (r : Reg) (u : Word) : (s.baseAfterError k r u).storedAt = s.storedAt := by
  rcases s.baseAfterError_cases k r u with h | h <;> simp [h]
@[simp] theorem State.baseAfterError_fetchedAt (k : Nat) (r : Reg) (u : Word) : (s.baseAfterError k r u).fetchedAt = s.fetchedAt := by
  rcases s.baseAfterError_cases k r u with h | h <;> simp [h]
@[simp] theorem State.baseAfterError_inputs (k : Nat) (r : Reg) (u : Word) : (s.baseAfterError k r u).inputs = s.inputs := by
  rcases s.baseAfterError_cases k r u with h | h <;> simp [h]
@[simp] theorem State.baseAfterError_between (k : Nat) (r : Reg) (u : Word) : (s.baseAfterError k r u).between = s.between := by
  rcases s.baseAfterError_cases k r u with h | h <;> simp [h]
@[simp] theorem State.baseAfterError_tick (k : Nat) (r : Reg) (u : Word) : (s.baseAfterError k r u).tick = s.tick := by
  rcases s.baseAfterError_cases k r u with h | h <;> simp [h]

@[simp] theorem State.baseAfterError_nextPc (k : Nat) (r : Reg) (u : Word) : (s.baseAfterError k r u).nextPc = s.nextPc := by
  rcases s.baseAfterError_cases k r u with h | h <;> simp [h]

/-- Registers other than the base are untouched. -/
theorem State.baseAfterError_reg (k : Nat) (r q : Reg) (u : Word) (h : q ≠ r) :
    (s.baseAfterError k r u).reg q = s.reg q := by
  rcases s.baseAfterError_cases k r u with e | e <;> simp [e, h]

end Sys2Proof.Machine
end

