-- ==== Sys2Proof/Laws/Ops.lean ====
section
/-! SUPPORT. For each shared operation, once, everything it can do: its fields after it, and for an outcome the `_next`
lemma with the cases that answer a next state. A proof cites these and does not unfold the operation. -/

namespace Sys2Proof.Machine

variable (s : State)

/-! ### Stores -/

@[simp] theorem State.storeByte_regs (a : Word) (v : Byte) : (s.storeByte a v).regs = s.regs := rfl
@[simp] theorem State.storeByte_reg (a : Word) (v : Byte) (r : Reg) : (s.storeByte a v).reg r = s.reg r := rfl
@[simp] theorem State.storeByte_sr (a : Word) (v : Byte) : (s.storeByte a v).sr = s.sr := rfl
@[simp] theorem State.storeByte_gbr (a : Word) (v : Byte) : (s.storeByte a v).gbr = s.gbr := rfl
@[simp] theorem State.storeByte_vbr (a : Word) (v : Byte) : (s.storeByte a v).vbr = s.vbr := rfl
@[simp] theorem State.storeByte_mach (a : Word) (v : Byte) : (s.storeByte a v).mach = s.mach := rfl
@[simp] theorem State.storeByte_macl (a : Word) (v : Byte) : (s.storeByte a v).macl = s.macl := rfl
@[simp] theorem State.storeByte_pr (a : Word) (v : Byte) : (s.storeByte a v).pr = s.pr := rfl
@[simp] theorem State.storeByte_pc (a : Word) (v : Byte) : (s.storeByte a v).pc = s.pc := rfl
@[simp] theorem State.storeByte_delay (a : Word) (v : Byte) : (s.storeByte a v).delay = s.delay := rfl
@[simp] theorem State.storeByte_mode (a : Word) (v : Byte) : (s.storeByte a v).mode = s.mode := rfl
@[simp] theorem State.storeByte_multSinceMach (a : Word) (v : Byte) :
    (s.storeByte a v).multSinceMach = s.multSinceMach := rfl
@[simp] theorem State.storeByte_multSinceMacl (a : Word) (v : Byte) :
    (s.storeByte a v).multSinceMacl = s.multSinceMacl := rfl
@[simp] theorem State.storeByte_platform (a : Word) (v : Byte) : (s.storeByte a v).platform = s.platform := rfl
@[simp] theorem State.storeByte_map (a : Word) (v : Byte) : (s.storeByte a v).map = s.map := rfl
@[simp] theorem State.storeByte_fetchedAt (a : Word) (v : Byte) : (s.storeByte a v).fetchedAt = s.fetchedAt := rfl
@[simp] theorem State.storeByte_inputs (a : Word) (v : Byte) : (s.storeByte a v).inputs = s.inputs := rfl
@[simp] theorem State.storeByte_between (a : Word) (v : Byte) : (s.storeByte a v).between = s.between := rfl
@[simp] theorem State.storeByte_tick (a : Word) (v : Byte) : (s.storeByte a v).tick = s.tick := rfl
@[simp] theorem State.storeByte_kindAt (a : Word) (v : Byte) (b : Word) :
    (s.storeByte a v).kindAt b = s.kindAt b := by
  unfold State.kindAt; simp

/-- Reading any byte after storing one. -/
@[simp] theorem State.storeByte_byteAt (a : Word) (v : Byte) (k : Nat) (b : Word) :
    (s.storeByte a v).byteAt k b = if b = a ∧ s.kindAt a ≠ .device then v else s.byteAt k b := by
  unfold State.byteAt
  rw [State.storeByte_kindAt, State.storeByte_tick]
  by_cases hb : s.kindAt b = .device
  · simp only [hb, if_true]
    split
    · next h => obtain ⟨rfl, h⟩ := h; exact absurd hb h
    · rfl
  · simp only [hb, if_false, State.storeByte]
    split
    · next ha => simp [ha]
    · next ha => simp [ha, BitVec.toNat_inj]

/-- The stored-to addresses after storing one byte. -/
theorem State.mem_storeByte_storedAt (a : Word) (v : Byte) (n : Nat) :
    n ∈ (s.storeByte a v).storedAt ↔ n ∈ s.storedAt ∨ n = a.toNat := by
  simp [State.storeByte, or_comm]

/-- Storing a byte keeps memory canonical. -/
theorem State.storeByte_mem_wf {s : State} (h : Memory.wf s.mem) (a : Word) (v : Byte) :
    Memory.wf (s.storeByte a v).mem := by
  simp only [State.storeByte]
  split
  · exact h
  · exact Memory.put_wf h a.isLt v

/-- Storing a byte keeps the stored-to addresses canonical. -/
theorem State.storeByte_storedAt_wf {s : State} (h : AddressSet.wf s.storedAt) (a : Word) (v : Byte) :
    AddressSet.wf (s.storeByte a v).storedAt :=
  AddressSet.insert_wf h a.isLt

/-- What a property of states keeps under one byte, it keeps under a list of them. -/
theorem State.storeBytes_induction {P : State → Prop} (hstep : ∀ s a v, P s → P (s.storeByte a v)) {s : State}
    (h : P s) (bs : List (Word × Byte)) : P (s.storeBytes bs) := by
  unfold State.storeBytes
  induction bs generalizing s with
  | nil => exact h
  | cons b bs ih => exact ih (hstep s b.1 b.2 h)

@[simp] theorem State.storeBytes_regs (bs : List (Word × Byte)) : (s.storeBytes bs).regs = s.regs :=
  State.storeBytes_induction (P := fun t => t.regs = s.regs) (by simp +contextual) rfl bs
@[simp] theorem State.storeBytes_reg (bs : List (Word × Byte)) (r : Reg) : (s.storeBytes bs).reg r = s.reg r := by
  simp [State.reg]
@[simp] theorem State.storeBytes_sr (bs : List (Word × Byte)) : (s.storeBytes bs).sr = s.sr :=
  State.storeBytes_induction (P := fun t => t.sr = s.sr) (by simp +contextual) rfl bs
@[simp] theorem State.storeBytes_gbr (bs : List (Word × Byte)) : (s.storeBytes bs).gbr = s.gbr :=
  State.storeBytes_induction (P := fun t => t.gbr = s.gbr) (by simp +contextual) rfl bs
@[simp] theorem State.storeBytes_vbr (bs : List (Word × Byte)) : (s.storeBytes bs).vbr = s.vbr :=
  State.storeBytes_induction (P := fun t => t.vbr = s.vbr) (by simp +contextual) rfl bs
@[simp] theorem State.storeBytes_mach (bs : List (Word × Byte)) : (s.storeBytes bs).mach = s.mach :=
  State.storeBytes_induction (P := fun t => t.mach = s.mach) (by simp +contextual) rfl bs
@[simp] theorem State.storeBytes_macl (bs : List (Word × Byte)) : (s.storeBytes bs).macl = s.macl :=
  State.storeBytes_induction (P := fun t => t.macl = s.macl) (by simp +contextual) rfl bs
@[simp] theorem State.storeBytes_pr (bs : List (Word × Byte)) : (s.storeBytes bs).pr = s.pr :=
  State.storeBytes_induction (P := fun t => t.pr = s.pr) (by simp +contextual) rfl bs
@[simp] theorem State.storeBytes_pc (bs : List (Word × Byte)) : (s.storeBytes bs).pc = s.pc :=
  State.storeBytes_induction (P := fun t => t.pc = s.pc) (by simp +contextual) rfl bs
@[simp] theorem State.storeBytes_delay (bs : List (Word × Byte)) : (s.storeBytes bs).delay = s.delay :=
  State.storeBytes_induction (P := fun t => t.delay = s.delay) (by simp +contextual) rfl bs
@[simp] theorem State.storeBytes_mode (bs : List (Word × Byte)) : (s.storeBytes bs).mode = s.mode :=
  State.storeBytes_induction (P := fun t => t.mode = s.mode) (by simp +contextual) rfl bs
@[simp] theorem State.storeBytes_multSinceMach (bs : List (Word × Byte)) :
    (s.storeBytes bs).multSinceMach = s.multSinceMach :=
  State.storeBytes_induction (P := fun t => t.multSinceMach = s.multSinceMach) (by simp +contextual) rfl bs
@[simp] theorem State.storeBytes_multSinceMacl (bs : List (Word × Byte)) :
    (s.storeBytes bs).multSinceMacl = s.multSinceMacl :=
  State.storeBytes_induction (P := fun t => t.multSinceMacl = s.multSinceMacl) (by simp +contextual) rfl bs
@[simp] theorem State.storeBytes_platform (bs : List (Word × Byte)) : (s.storeBytes bs).platform = s.platform :=
  State.storeBytes_induction (P := fun t => t.platform = s.platform) (by simp +contextual) rfl bs
@[simp] theorem State.storeBytes_map (bs : List (Word × Byte)) : (s.storeBytes bs).map = s.map :=
  State.storeBytes_induction (P := fun t => t.map = s.map) (by simp +contextual) rfl bs
@[simp] theorem State.storeBytes_fetchedAt (bs : List (Word × Byte)) : (s.storeBytes bs).fetchedAt = s.fetchedAt :=
  State.storeBytes_induction (P := fun t => t.fetchedAt = s.fetchedAt) (by simp +contextual) rfl bs
@[simp] theorem State.storeBytes_inputs (bs : List (Word × Byte)) : (s.storeBytes bs).inputs = s.inputs :=
  State.storeBytes_induction (P := fun t => t.inputs = s.inputs) (by simp +contextual) rfl bs
@[simp] theorem State.storeBytes_between (bs : List (Word × Byte)) : (s.storeBytes bs).between = s.between :=
  State.storeBytes_induction (P := fun t => t.between = s.between) (by simp +contextual) rfl bs
@[simp] theorem State.storeBytes_tick (bs : List (Word × Byte)) : (s.storeBytes bs).tick = s.tick :=
  State.storeBytes_induction (P := fun t => t.tick = s.tick) (by simp +contextual) rfl bs
@[simp] theorem State.storeBytes_kindAt (bs : List (Word × Byte)) (b : Word) :
    (s.storeBytes bs).kindAt b = s.kindAt b := by
  simp [State.kindAt]
@[simp] theorem State.storeBytes_t (bs : List (Word × Byte)) : (s.storeBytes bs).t = s.t := by
  simp [State.t]
@[simp] theorem State.storeBytes_sBit (bs : List (Word × Byte)) : (s.storeBytes bs).sBit = s.sBit := by
  simp [State.sBit]
@[simp] theorem State.storeBytes_q (bs : List (Word × Byte)) : (s.storeBytes bs).q = s.q := by
  simp [State.q]
@[simp] theorem State.storeBytes_m (bs : List (Word × Byte)) : (s.storeBytes bs).m = s.m := by
  simp [State.m]
@[simp] theorem State.storeBytes_imask (bs : List (Word × Byte)) : (s.storeBytes bs).imask = s.imask := by
  simp [State.imask]
@[simp] theorem State.storeBytes_srValue (bs : List (Word × Byte)) : (s.storeBytes bs).srValue = s.srValue := by
  simp [State.srValue]
@[simp] theorem State.storeBytes_nextPc (bs : List (Word × Byte)) : (s.storeBytes bs).nextPc = s.nextPc := by
  simp [State.nextPc]
@[simp] theorem State.storeBytes_mapped (bs : List (Word × Byte)) (sz : Size) (a : Word) :
    (s.storeBytes bs).mapped sz a = s.mapped sz a := by
  simp [State.mapped]
@[simp] theorem State.storeBytes_writable (bs : List (Word × Byte)) (sz : Size) (a : Word) :
    (s.storeBytes bs).writable sz a = s.writable sz a := by
  simp [State.writable]

/-- Stores keep memory and the stored-to addresses canonical. -/
theorem State.storeBytes_wf {s : State} (h : Memory.wf s.mem ∧ AddressSet.wf s.storedAt) (bs : List (Word × Byte)) :
    Memory.wf (s.storeBytes bs).mem ∧ AddressSet.wf (s.storeBytes bs).storedAt :=
  State.storeBytes_induction (P := fun t => Memory.wf t.mem ∧ AddressSet.wf t.storedAt)
    (fun _ a v h => ⟨State.storeByte_mem_wf h.1 a v, State.storeByte_storedAt_wf h.2 a v⟩) h bs

/-- A byte at an address that no store of the list has is as before. -/
theorem State.storeBytes_byteAt_of_notMem (bs : List (Word × Byte)) (k : Nat) (b : Word)
    (h : ∀ p ∈ bs, p.1 ≠ b) : (s.storeBytes bs).byteAt k b = s.byteAt k b := by
  unfold State.storeBytes
  induction bs generalizing s with
  | nil => rfl
  | cons p bs ih =>
    rw [List.foldl_cons, ih _ fun q hq => h q (by simp [hq]), State.storeByte_byteAt, if_neg]
    exact fun hp => h p (by simp) hp.1.symm

/-- The stored-to addresses after a list of stores. -/
theorem State.mem_storeBytes_storedAt (bs : List (Word × Byte)) (n : Nat) :
    n ∈ (s.storeBytes bs).storedAt ↔ n ∈ s.storedAt ∨ ∃ p ∈ bs, n = p.1.toNat := by
  unfold State.storeBytes
  induction bs generalizing s with
  | nil => simp
  | cons p bs ih =>
    rw [List.foldl_cons, ih]
    simp [State.mem_storeByte_storedAt, or_assoc]

/-- The addresses of a datum's bytes are those of the access. -/
@[simp] theorem bytesOf_addresses (sz : Size) (a v : Word) : (bytesOf sz a v).map Prod.fst = span sz a := by
  cases sz <;> rfl

theorem mem_span_of_mem_bytesOf {sz : Size} {a v : Word} {p : Word × Byte} (h : p ∈ bytesOf sz a v) :
    p.1 ∈ span sz a := by
  rw [← bytesOf_addresses sz a v]
  exact List.mem_map_of_mem h

/-- Memory outside the bytes of a store is as before. -/
theorem State.store_byteAt_outside (sz : Size) (a v : Word) (k : Nat) (b : Word) (h : b ∉ span sz a) :
    (s.storeBytes (bytesOf sz a v)).byteAt k b = s.byteAt k b :=
  s.storeBytes_byteAt_of_notMem _ _ _ fun _ hp he => h (he ▸ mem_span_of_mem_bytesOf hp)

/-- The stored bytes, most significant lowest (R62, R67). -/
theorem State.store_holds (sz : Size) (a v : Word) : Holds (s.storeBytes (bytesOf sz a v)) sz a v := by
  cases sz <;> simp only [Holds, bytesOf, State.storeBytes, List.foldl, State.storeByte_kindAt, State.storeByte_byteAt]
  · intro h k; simp [h]
  · refine ⟨fun h k => ?_, fun h k => ?_⟩ <;> simp_all
  · refine ⟨fun h k => ?_, fun h k => ?_, fun h k => ?_, fun h k => ?_⟩ <;> simp_all

/-! ### Other bus masters -/

/-- What may no longer be fetched after another master's writes: what might not before, and what it wrote over text of this
run (R78). -/
theorem State.mem_busWrites_storedAt (ws : List (Word × Byte)) (n : Nat) :
    n ∈ (s.busWrites ws).storedAt ↔ n ∈ s.storedAt ∨ n ∈ s.fetchedAt ∧ ∃ p ∈ ws, p.1.toNat = n := by
  simp only [State.busWrites, State.overwritten, AddressSet.mem_insertAll, List.mem_filter, List.mem_map,
    List.contains_iff_mem]
  refine or_congr_right ⟨?_, ?_⟩
  · rintro ⟨_, ⟨⟨p, hp, rfl⟩, hf⟩, rfl⟩; exact ⟨hf, p, hp, rfl⟩
  · rintro ⟨hf, p, hp, rfl⟩; exact ⟨p.1, ⟨⟨p, hp, rfl⟩, hf⟩, rfl⟩

/-- Another bus master's writes keep the canonical forms. -/
theorem State.busWrites_wf {s : State} (h : Memory.wf s.mem ∧ AddressSet.wf s.storedAt) (ws : List (Word × Byte)) :
    Memory.wf (s.busWrites ws).mem ∧ AddressSet.wf (s.busWrites ws).storedAt :=
  ⟨Memory.putAll_wf h.1 ws, AddressSet.insertAll_wf h.2 _⟩

/-- So do those before an access. -/
theorem State.arbitrate_wf {s : State} (h : Memory.wf s.mem ∧ AddressSet.wf s.storedAt) :
    Memory.wf s.arbitrate.mem ∧ AddressSet.wf s.arbitrate.storedAt := State.busWrites_wf h _

/-- Others' writes before `n` accesses, `mem`, `storedAt` and the script apart, leave the state as it is. -/
theorem State.arbitrated_eq (n : Nat) (s : State) :
    s.arbitrated n = { s with
      mem := (s.arbitrated n).mem, storedAt := (s.arbitrated n).storedAt, between := (s.arbitrated n).between } := by
  induction n generalizing s with
  | zero => rfl
  | succ n ih => exact (ih s.arbitrate).trans rfl

/-- With an empty script no other master writes. -/
theorem State.arbitrated_eq_self {s : State} (h : s.between = []) (n : Nat) : s.arbitrated n = s := by
  induction n with
  | zero => rfl
  | succ n ih => rw [State.arbitrated, State.arbitrate_eq_self h, ih]

/-! ### The access primitives -/

theorem memRead_eq_ok {s : State} {k : Nat} {sz : Size} {a v : Word} :
    memRead s k sz a = .ok v ↔ aligned sz a = true ∧ s.mapped sz a = true ∧ v = s.readValue k sz a := by
  unfold memRead
  by_cases h1 : aligned sz a = true <;> by_cases h2 : s.mapped sz a = true <;> simp [h1, h2, eq_comm]

theorem memRead_eq_addressError {s : State} {k : Nat} {sz : Size} {a : Word} :
    memRead s k sz a = .addressError ↔ aligned sz a = false := by
  unfold memRead
  by_cases h1 : aligned sz a = true <;> by_cases h2 : s.mapped sz a = true <;> simp [h1, h2]

theorem memWrite_eq_ok {s t : State} {sz : Size} {a v : Word} :
    memWrite s sz a v = .ok t ↔
      aligned sz a = true ∧ s.mapped sz a = true ∧ s.writable sz a = true ∧ t = s.storeBytes (bytesOf sz a v) := by
  unfold memWrite
  by_cases h1 : aligned sz a = true <;> by_cases h2 : s.mapped sz a = true <;>
    by_cases h3 : s.writable sz a = true <;> simp [h1, h2, h3, eq_comm]

theorem memWrite_eq_addressError {s : State} {sz : Size} {a v : Word} :
    memWrite s sz a v = .addressError ↔ aligned sz a = false := by
  unfold memWrite
  by_cases h1 : aligned sz a = true <;> by_cases h2 : s.mapped sz a = true <;>
    by_cases h3 : s.writable sz a = true <;> simp [h1, h2, h3]

/-- What a load leaves in a register: the value read, extended (R42). -/
theorem loadExtend_readValue (k : Nat) (sz : Size) (a : Word) :
    loadExtend sz (s.readValue k sz a) = loadedValue s k sz a := by
  cases sz <;> simp [loadExtend, State.readValue, loadedValue, sextByte, sextWord]

/-! ### Guards and accesses: the ways to a next state -/

theorem notInSlot_next {s t : State} {r : Result} (h : notInSlot s r = .next t) :
    (s.delay = none ∧ r = .next t) ∨
      ∃ target, s.delay = some target ∧ exceptionEntry s vecSlotIllegal target none = .next t := by
  unfold notInSlot at h
  split at h
  · next hd => exact .inl ⟨hd, h⟩
  · next target hd => exact .inr ⟨target, hd, h⟩

theorem pcOperandGuard_next {s t : State} {r : Result} (h : pcOperandGuard s r = .next t) :
    s.delay = none ∧ r = .next t := by
  unfold pcOperandGuard at h
  split at h
  · next hd => exact ⟨hd, h⟩
  · cases h

theorem multiplierGuard_next {s t : State} {r : Result} (h : multiplierGuard s r = .next t) :
    s.platform.stopMult = false ∧ r = .next t := by
  unfold multiplierGuard at h
  split at h
  · cases h
  · next hm => exact ⟨by simpa using hm, h⟩

theorem readThen_next {s t err : State} {k : Nat} {sz : Size} {a : Word} {f : State → Word → Result}
    (h : readThen s k sz a err f = .next t) :
    (aligned sz a = true ∧ s.mapped sz a = true ∧
        f s.arbitrate (s.arbitrate.readValue k sz a) = .next t) ∨
      (aligned sz a = false ∧ addressErrorEntry err = .next t) := by
  unfold readThen at h
  split at h
  · next v hv =>
    obtain ⟨h1, h2, rfl⟩ := memRead_eq_ok.1 hv
    exact .inl ⟨h1, h2, h⟩
  · next hv => exact .inr ⟨memRead_eq_addressError.1 hv, h⟩
  · cases h

theorem writeHeld_next {s t err : State} {sz : Size} {a v : Word} {f : State → Result}
    (h : writeHeld s sz a v err f = .next t) :
    (aligned sz a = true ∧ s.mapped sz a = true ∧ s.writable sz a = true ∧
        f (s.storeBytes (bytesOf sz a v)) = .next t) ∨
      (aligned sz a = false ∧ addressErrorEntry err = .next t) := by
  unfold writeHeld at h
  split at h
  · next u hu =>
    obtain ⟨h1, h2, h3, rfl⟩ := memWrite_eq_ok.1 hu
    exact .inl ⟨h1, h2, h3, h⟩
  · next hv => exact .inr ⟨memWrite_eq_addressError.1 hv, h⟩
  · cases h

theorem writeThen_next {s t err : State} {sz : Size} {a v : Word} {f : State → Result}
    (h : writeThen s sz a v err f = .next t) :
    (aligned sz a = true ∧ s.mapped sz a = true ∧ s.writable sz a = true ∧
        f (s.arbitrate.storeBytes (bytesOf sz a v)) = .next t) ∨
      (aligned sz a = false ∧ addressErrorEntry err = .next t) := writeHeld_next h

/-- An aligned read of something goes on with the value. -/
theorem readThen_ok {s err : State} {k : Nat} {sz : Size} {a : Word} {f : State → Word → Result}
    (h1 : aligned sz a = true) (h2 : s.mapped sz a = true) :
    readThen s k sz a err f = f s.arbitrate (s.arbitrate.readValue k sz a) := by
  unfold readThen memRead
  simp [h1, h2]

/-- A misaligned read is an address error. -/
theorem readThen_misaligned {s err : State} {k : Nat} {sz : Size} {a : Word} {f : State → Word → Result}
    (h : aligned sz a = false) : readThen s k sz a err f = addressErrorEntry err := by
  unfold readThen memRead
  simp [h]

/-- An aligned read where nothing lies is the fault of U3. -/
theorem readThen_absent {s err : State} {k : Nat} {sz : Size} {a : Word} {f : State → Word → Result}
    (h1 : aligned sz a = true) (h2 : s.mapped sz a = false) : readThen s k sz a err f = .fault .absentAddress := by
  unfold readThen memRead
  simp [h1, h2]

/-- An aligned write to something that is not ROM goes on after the store. -/
theorem writeHeld_ok {s err : State} {sz : Size} {a v : Word} {f : State → Result} (h1 : aligned sz a = true)
    (h2 : s.mapped sz a = true) (h3 : s.writable sz a = true) :
    writeHeld s sz a v err f = f (s.storeBytes (bytesOf sz a v)) := by
  unfold writeHeld memWrite
  simp [h1, h2, h3]

theorem writeThen_ok {s err : State} {sz : Size} {a v : Word} {f : State → Result} (h1 : aligned sz a = true)
    (h2 : s.mapped sz a = true) (h3 : s.writable sz a = true) :
    writeThen s sz a v err f = f (s.arbitrate.storeBytes (bytesOf sz a v)) := writeHeld_ok h1 h2 h3

/-- An aligned write where nothing lies, and one to ROM, are the faults of U3. -/
theorem writeHeld_absent {s err : State} {sz : Size} {a v : Word} {f : State → Result} (h1 : aligned sz a = true)
    (h2 : s.mapped sz a = false) : writeHeld s sz a v err f = .fault .absentAddress := by
  unfold writeHeld memWrite
  simp [h1, h2]

theorem writeThen_absent {s err : State} {sz : Size} {a v : Word} {f : State → Result} (h1 : aligned sz a = true)
    (h2 : s.mapped sz a = false) : writeThen s sz a v err f = .fault .absentAddress := writeHeld_absent h1 h2

theorem writeHeld_rom {s err : State} {sz : Size} {a v : Word} {f : State → Result} (h1 : aligned sz a = true)
    (h2 : s.mapped sz a = true) (h3 : s.writable sz a = false) : writeHeld s sz a v err f = .fault .romStore := by
  unfold writeHeld memWrite
  simp [h1, h2, h3]

theorem writeThen_rom {s err : State} {sz : Size} {a v : Word} {f : State → Result} (h1 : aligned sz a = true)
    (h2 : s.mapped sz a = true) (h3 : s.writable sz a = false) : writeThen s sz a v err f = .fault .romStore :=
  writeHeld_rom h1 h2 h3

/-- A misaligned write is an address error. -/
theorem writeThen_misaligned {s err : State} {sz : Size} {a v : Word} {f : State → Result}
    (h : aligned sz a = false) : writeThen s sz a v err f = addressErrorEntry err := by
  unfold writeThen writeHeld memWrite
  simp [h]

/-! ### Exceptions -/

/-- The two pushes of an entry, each after what other masters write before it. -/
def State.pushFrame (s : State) (savedPc : Word) : State :=
  (s.arbitrate.storeBytes (bytesOf .long (s.reg 15 - 4) s.srValue)).arbitrate.storeBytes
    (bytesOf .long (s.reg 15 - 8) savedPc)

/-- Everything exception entry can do (R330). -/
theorem exceptionEntry_next {s t : State} {v : BitVec 8} {savedPc : Word} {level : Option (BitVec 4)}
    (h : exceptionEntry s v savedPc level = .next t) :
    aligned .long (s.reg 15 - 4) = true ∧ aligned .long (s.reg 15 - 8) = true ∧
    s.mapped .long (s.reg 15 - 4) = true ∧ s.writable .long (s.reg 15 - 4) = true ∧
    s.mapped .long (s.reg 15 - 8) = true ∧ s.writable .long (s.reg 15 - 8) = true ∧
    aligned .long (s.vbr + v.setWidth 32 * 4) = true ∧ s.mapped .long (s.vbr + v.setWidth 32 * 4) = true ∧
    t = { (s.pushFrame savedPc).arbitrate.setReg 15 (s.reg 15 - 8) with
            sr := level.elim s.sr (srWithMask s.sr), delay := none, mode := .run,
            pc := (s.pushFrame savedPc).arbitrate.readValue vectorAccess .long (s.vbr + v.setWidth 32 * 4) } := by
  unfold exceptionEntry at h
  split at h
  · next s1 h1 =>
    have k1 := memWrite_eq_ok.1 h1
    split at h
    · next s2 h2 =>
      have k2 := memWrite_eq_ok.1 h2
      split at h
      · next target h3 =>
        have k3 := memRead_eq_ok.1 h3
        have e2 : s2 = s.pushFrame savedPc := by rw [k2.2.2.2, k1.2.2.2, State.pushFrame]
        rw [k1.2.2.2] at k2
        rw [e2] at k3 h
        simp only [State.pushFrame, State.storeBytes_mapped, State.storeBytes_writable, State.arbitrate_mapped,
          State.arbitrate_writable] at k1 k2 k3
        rw [k3.2.2] at h
        exact ⟨k1.1, k2.1, k1.2.1, k1.2.2.1, k2.2.1, k2.2.2.1, k3.1, k3.2.1, (Host.Outcome.next.inj h).symm⟩
      · cases h
    · cases h
  · cases h

/-- Exception entry answers a next state or the entry fault, never a refusal (R339). -/
theorem exceptionEntry_cases (s : State) (v : BitVec 8) (savedPc : Word) (level : Option (BitVec 4)) :
    (∃ t, exceptionEntry s v savedPc level = .next t) ∨
      exceptionEntry s v savedPc level = .fault .exceptionEntry := by
  unfold exceptionEntry
  split
  · split
    · split
      · exact .inl ⟨_, rfl⟩
      · exact .inr rfl
    · exact .inr rfl
  · exact .inr rfl

/-- An undefined word is one of the two illegal instruction exceptions (R321, R322). -/
theorem illegalInstruction_next {s t : State} (h : illegalInstruction s = .next t) :
    (s.delay = none ∧ exceptionEntry s vecGeneralIllegal s.pc none = .next t) ∨
      ∃ target, s.delay = some target ∧ exceptionEntry s vecSlotIllegal target none = .next t := by
  unfold illegalInstruction at h
  split at h
  · next hd => exact .inl ⟨hd, h⟩
  · next target hd => exact .inr ⟨target, hd, h⟩

/-- RTE's two pops (R295). -/
theorem returnFromException_next {s t : State} (h : returnFromException s = .next t) :
    (aligned .long (s.reg 15) = true ∧ s.mapped .long (s.reg 15) = true ∧
      aligned .long (s.reg 15 + 4) = true ∧ s.mapped .long (s.reg 15 + 4) = true ∧
      t = ((s.arbitrate.arbitrate.setReg 15 (s.reg 15 + 8)).setSr
        (s.arbitrate.arbitrate.readValue 1 .long (s.reg 15 + 4))).branchDelayed
          (s.arbitrate.readValue 0 .long (s.reg 15))) ∨
      ∃ u, (u = s ∨ u = s.arbitrate) ∧ addressErrorEntry (u.baseAfterError 0 15 (s.reg 15 + 8)) = .next t := by
  simp only [returnFromException] at h
  obtain ⟨a1, m1, h1⟩ | ⟨-, h1⟩ := readThen_next h
  · obtain ⟨a2, m2, h2⟩ | ⟨-, h2⟩ := readThen_next h1
    · exact .inl ⟨a1, m1, a2, m2, (Host.Outcome.next.inj h2).symm⟩
    · exact .inr ⟨_, .inr rfl, h2⟩
  · exact .inr ⟨_, .inl rfl, h1⟩

end Sys2Proof.Machine
end

