-- ==== Sys2Proof/Laws/Events.lean ====
section
/-! SUPPORT. What happens at an instruction boundary: the ways a step answers a next state, and that no event breaks the
canonical form of memory. -/

namespace Sys2Proof.Machine

/-! ### Memory operations outside the instructions -/

/-- What standby mode loses is below 2^32. -/
theorem onChipRamAddresses_lt {map : List Region} {a : Nat} (h : a ∈ onChipRamAddresses map) : a < 2 ^ 32 := by
  unfold onChipRamAddresses at h
  simp only [List.mem_filter, Bool.and_eq_true, decide_eq_true_eq] at h
  exact h.2.1

/-- What standby mode loses is on-chip RAM. -/
theorem onChipRamAddresses_kind {map : List Region} {a : Nat} (h : a ∈ onChipRamAddresses map) :
    regionAt map a = .onChipRam := by
  unfold onChipRamAddresses at h
  simp only [List.mem_filter, Bool.and_eq_true, beq_iff_eq] at h
  exact h.2.2

theorem loseBytes_wf (f : Nat → Byte) (as : List Nat) (h : ∀ a ∈ as, a < 2 ^ 32) {m : List Host.Cell}
    (hm : Memory.wf m) : Memory.wf (as.foldl (fun m a => Memory.put m a (f a)) m) := by
  induction as generalizing m with
  | nil => exact hm
  | cons a as ih => exact ih (fun b hb => h b (by simp [hb])) (Memory.put_wf hm (h a (by simp)) _)

theorem loseBytes_lookup (f : Nat → Byte) (as : List Nat) (b : Nat) (h : b ∉ as) (m : List Host.Cell) :
    Memory.lookup (as.foldl (fun m a => Memory.put m a (f a)) m) b = Memory.lookup m b := by
  induction as generalizing m with
  | nil => rfl
  | cons a as ih =>
    rw [List.foldl_cons, ih (fun hb => h (by simp [hb])), Memory.lookup_put, if_neg]
    exact fun hb => h (by simp [hb])

/-- Losing on-chip RAM keeps memory canonical. -/
theorem loseOnChipRam_wf {s : State} (h : Memory.wf s.mem) : Memory.wf (loseOnChipRam s).mem :=
  loseBytes_wf _ _ (fun _ => onChipRamAddresses_lt) h

/-- Only on-chip RAM bytes are lost. -/
theorem loseOnChipRam_byteAt (s : State) (k : Nat) (a : Word) (h : s.kindAt a ≠ .onChipRam) :
    (loseOnChipRam s).byteAt k a = s.byteAt k a := by
  unfold State.byteAt loseOnChipRam State.kindAt
  split
  · rfl
  · exact loseBytes_lookup _ _ _ (fun ha => h (onChipRamAddresses_kind ha)) _

/-- The accumulator is all that `loseAccumulator` touches. -/
theorem loseAccumulator_cases (s : State) :
    (s.multSinceMach = false ∧ s.multSinceMacl = false ∧ loseAccumulator s = s) ∨
      loseAccumulator s = { s with mach := Config.undefinedWord s.tick 0, macl := Config.undefinedWord s.tick 1 } := by
  unfold loseAccumulator
  split
  · exact .inr rfl
  · next h =>
    simp only [Bool.or_eq_true, not_or, Bool.not_eq_true] at h
    exact .inl ⟨h.1, h.2, rfl⟩

/-- SLEEP's change of mode keeps memory canonical. -/
theorem powerDown_wf {s : State} (h : Memory.wf s.mem) : Memory.wf (powerDown s).mem := by
  unfold powerDown enterStandby
  split
  · rcases loseAccumulator_cases s with ⟨-, -, e⟩ | e <;> rw [e] <;> exact loseOnChipRam_wf (by exact h)
  · exact h

/-- Loading an instruction keeps memory canonical. -/
theorem State.withFetchWord_wf {s : State} (h : Memory.wf s.mem) (nbits w : Nat) :
    Memory.wf (s.withFetchWord nbits w).mem :=
  Memory.put_wf (Memory.put_wf h s.pc.isLt _) (s.pc + 1).isLt _

/-- The memory after reset is canonical, and so are the two sets of addresses. -/
theorem State.reset_wf :
    Memory.wf State.reset.mem ∧ AddressSet.wf State.reset.storedAt ∧ AddressSet.wf State.reset.fetchedAt :=
  ⟨Memory.nil_wf, ⟨List.Pairwise.nil, by simp [State.reset]⟩, List.Pairwise.nil, by simp [State.reset]⟩

/-! ### Reset -/

/-- Everything the reset sequence can do (R371). -/
theorem resetSequence_next {kind : ResetKind} {s t : State} (h : resetSequence kind s = .next t) :
    s.mapped .long (resetBase kind) = true ∧ s.mapped .long (resetBase kind + 4) = true ∧
    t = { s.arbitrate.arbitrate with
      regs := resetRegs s.tick (s.arbitrate.arbitrate.readValue 1 .long (resetBase kind + 4))
      sr := resetSr s.tick
      gbr := Config.undefinedWord s.tick 17
      vbr := 0
      mach := Config.undefinedWord s.tick 18
      macl := Config.undefinedWord s.tick 19
      pr := Config.undefinedWord s.tick 20
      pc := s.arbitrate.readValue 0 .long (resetBase kind)
      delay := none
      mode := .run
      storedAt := []
      fetchedAt := [] } := by
  unfold resetSequence at h
  split at h
  · next entry sp h1 h2 =>
    obtain ⟨-, m1, rfl⟩ := memRead_eq_ok.1 h1
    obtain ⟨-, m2, rfl⟩ := memRead_eq_ok.1 h2
    exact ⟨m1, m2, (Host.Outcome.next.inj h).symm⟩
  · cases h

/-! ### Instruction fetch -/

theorem fetch_eq_word {s : State} {w : Half} :
    fetch s = .word w ↔ aligned .word s.pc = true ∧ s.mapped .word s.pc = true ∧ s.selfModified s.pc = false ∧
       w = s.codeAt s.pc := by
  unfold fetch
  by_cases h1 : aligned .word s.pc = true <;> by_cases h2 : s.mapped .word s.pc = true <;>
    by_cases h3 : s.selfModified s.pc = true <;> simp [h1, h2, h3, eq_comm]

theorem fetch_eq_addressError {s : State} : fetch s = .addressError ↔ aligned .word s.pc = false := by
  unfold fetch
  by_cases h1 : aligned .word s.pc = true <;> by_cases h2 : s.mapped .word s.pc = true <;>
    by_cases h3 : s.selfModified s.pc = true <;> simp [h1, h2, h3]

/-- Fetching keeps the set of fetched addresses canonical. -/
theorem State.markFetched_wf {s : State} (h : AddressSet.wf s.fetchedAt) : AddressSet.wf s.markFetched.fetchedAt :=
  AddressSet.insertAll_wf h _

/-- The ways the next instruction answers a next state. -/
theorem executeNext_next {s t : State} (h : executeNext s = .next t) :
    (fetch s = .addressError ∧ exceptionEntry s vecAddressError s.pc none = .next t) ∨
      ∃ w, fetch s = .word w ∧
        ((∃ i, decode w = .ok i ∧ exec i s.markFetched = .next t) ∨
          (∃ e, decode w = .error e) ∧ illegalInstruction s.markFetched = .next t) := by
  unfold executeNext at h
  split at h
  · next hf => exact .inl ⟨hf, h⟩
  · cases h
  · cases h
  · next w hf =>
    refine .inr ⟨w, hf, ?_⟩
    split at h
    · next i hd => exact .inl ⟨i, hd, h⟩
    · next e hd => exact .inr ⟨⟨e, hd⟩, h⟩

/-! ### Boundaries -/

/-- The ways a running CPU answers a next state. -/
theorem runStep_next {inp : Input} {s t : State} (h : runStep inp s = .next t) :
    executeNext s = .next t ∨
      s.delay = none ∧ (inp.dmaError = true ∧ aligned .word s.pc = true ∧ dmaErrorEntry s = .next t ∨
        ∃ r, acceptedRequest s.imask inp.requests = some r ∧ interruptEntry s r = .next t) := by
  unfold runStep at h
  split at h
  · exact .inl h
  · next hd =>
    split at h
    · next hi =>
      split at h
      · next hp => exact .inr ⟨hd, .inl ⟨hi, hp, h⟩⟩
      · exact .inl h
    · split at h
      · next r hr => exact .inr ⟨hd, .inr ⟨r, hr, h⟩⟩
      · exact .inl h

/-- The ways a step answers a next state. -/
theorem step_next {s t : State} (h : step s = .next t) :
    (∃ kind, s.boundary.reset = some kind ∧ resetSequence kind s.begin = .next t) ∨
      s.boundary.reset = none ∧
        ((∃ ws, s.boundary.bus = some ws ∧ t = s.begin.releaseBus ws) ∨
          s.boundary.bus = none ∧
            ((s.mode = .run ∧ runStep s.boundary s.begin = .next t) ∨
              (s.mode = .busReleased ∧ runStep s.boundary { s.begin with mode := .run } = .next t) ∨
              (s.mode = .sleep ∧ sleepStep s.boundary s.begin = .next t) ∨
              (s.mode = .standby ∧ standbyStep s.boundary s.begin = .next t))) := by
  unfold step at h
  split at h
  · next kind hk => exact .inl ⟨kind, hk, h⟩
  · next hr =>
    refine .inr ⟨hr, ?_⟩
    split at h
    · next ws hw => exact .inl ⟨ws, hw, (Host.Outcome.next.inj h).symm⟩
    · next hb =>
      refine .inr ⟨hb, ?_⟩
      unfold modeStep at h
      split at h
      · next hm => exact .inl ⟨hm, h⟩
      · next hm => exact .inr (.inl ⟨hm, h⟩)
      · next hm => exact .inr (.inr (.inl ⟨hm, h⟩))
      · next hm => exact .inr (.inr (.inr ⟨hm, h⟩))

/-- The ways a sleeping CPU answers a next state (R358). -/
theorem sleepStep_next {inp : Input} {s t : State} (h : sleepStep inp s = .next t) :
    t = s ∨ (inp.dmaError = true ∧ dmaErrorEntry s = .next t) ∨
      ∃ r, acceptedRequest s.imask inp.requests = some r ∧ interruptEntry s r = .next t := by
  unfold sleepStep at h
  split at h
  · next hd => exact .inr (.inl ⟨hd, h⟩)
  · split at h
    · next r hr => exact .inr (.inr ⟨r, hr, h⟩)
    · exact .inl (Host.Outcome.next.inj h).symm

/-- The ways a CPU in standby mode answers a next state (R358). -/
theorem standbyStep_next {inp : Input} {s t : State} (h : standbyStep inp s = .next t) :
    t = s ∨ (inp.requests.contains .nmi = true ∧ interruptEntry s .nmi = .next t) := by
  unfold standbyStep at h
  split at h
  · next hn => exact .inr ⟨hn, h⟩
  · exact .inl (Host.Outcome.next.inj h).symm

/-- The step's first act keeps everything but the boundary's input, the platform and the step's number. -/
@[simp] theorem State.begin_mem (s : State) : s.begin.mem = s.mem := rfl
@[simp] theorem State.begin_storedAt (s : State) : s.begin.storedAt = s.storedAt := rfl
@[simp] theorem State.begin_fetchedAt (s : State) : s.begin.fetchedAt = s.fetchedAt := rfl
@[simp] theorem State.begin_regs (s : State) : s.begin.regs = s.regs := rfl
@[simp] theorem State.begin_reg (s : State) (r : Reg) : s.begin.reg r = s.reg r := rfl
@[simp] theorem State.begin_sr (s : State) : s.begin.sr = s.sr := rfl
@[simp] theorem State.begin_gbr (s : State) : s.begin.gbr = s.gbr := rfl
@[simp] theorem State.begin_vbr (s : State) : s.begin.vbr = s.vbr := rfl
@[simp] theorem State.begin_mach (s : State) : s.begin.mach = s.mach := rfl
@[simp] theorem State.begin_macl (s : State) : s.begin.macl = s.macl := rfl
@[simp] theorem State.begin_pr (s : State) : s.begin.pr = s.pr := rfl
@[simp] theorem State.begin_pc (s : State) : s.begin.pc = s.pc := rfl
@[simp] theorem State.begin_delay (s : State) : s.begin.delay = s.delay := rfl
@[simp] theorem State.begin_mode (s : State) : s.begin.mode = s.mode := rfl
@[simp] theorem State.begin_map (s : State) : s.begin.map = s.map := rfl
@[simp] theorem State.begin_tick (s : State) : s.begin.tick = s.tick + 1 := rfl
@[simp] theorem State.begin_inputs (s : State) : s.begin.inputs = s.inputs.tail := rfl
@[simp] theorem State.begin_between (s : State) : s.begin.between = s.boundary.between := rfl
@[simp] theorem State.begin_imask (s : State) : s.begin.imask = s.imask := rfl
@[simp] theorem State.begin_kindAt (s : State) (a : Word) : s.begin.kindAt a = s.kindAt a := rfl
@[simp] theorem State.begin_mapped (s : State) (sz : Size) (a : Word) : s.begin.mapped sz a = s.mapped sz a := rfl
@[simp] theorem State.begin_writable (s : State) (sz : Size) (a : Word) : s.begin.writable sz a = s.writable sz a := rfl
@[simp] theorem State.begin_multSinceMach (s : State) : s.begin.multSinceMach = s.multSinceMach := rfl
@[simp] theorem State.begin_multSinceMacl (s : State) : s.begin.multSinceMacl = s.multSinceMacl := rfl

end Sys2Proof.Machine
end

