-- ==== Sys2Proof/Laws/Sr.lean ====
section
/-! SUPPORT. The fields of SR: what a write of one bit, of the mask or of the whole register does to each bit. -/

namespace Sys2Proof.Machine

/-- Every bit after a write of bit `i`. -/
@[simp] theorem setBit_getLsbD (w : Word) (i j : Nat) (b : Bool) :
    (setBit w i b).getLsbD j = if j = i ∧ i < 32 then b else w.getLsbD j := by
  unfold setBit
  by_cases hj : j < 32
  · cases b <;> simp only [if_true, if_false, Bool.false_eq_true, BitVec.getLsbD_or, BitVec.getLsbD_and, BitVec.getLsbD_not,
      BitVec.getLsbD_twoPow, hj] <;> by_cases hij : j = i <;> simp_all [eq_comm]
  · rw [BitVec.getLsbD_of_ge _ _ (by omega), if_neg (by omega), BitVec.getLsbD_of_ge _ _ (by omega)]

/-- The same for the bits below 32, in the other spelling. -/
@[simp] theorem setBit_getElem (w : Word) (i j : Nat) (b : Bool) (hj : j < 32) :
    (setBit w i b)[j] = if j = i then b else w[j] := by
  rw [← BitVec.getLsbD_eq_getElem, setBit_getLsbD, BitVec.getLsbD_eq_getElem]
  split <;> split <;> first | rfl | omega

variable (s : State)

@[simp] theorem State.setT_t (b : Bool) : (s.setT b).t = b := by simp [State.t, bitT]
@[simp] theorem State.setT_q (b : Bool) : (s.setT b).q = s.q := by simp [State.q, bitT, bitQ]
@[simp] theorem State.setT_m (b : Bool) : (s.setT b).m = s.m := by simp [State.m, bitT, bitM]
@[simp] theorem State.setT_sBit (b : Bool) : (s.setT b).sBit = s.sBit := by simp [State.sBit, bitT, bitS]
@[simp] theorem State.setQ_t (b : Bool) : (s.setQ b).t = s.t := by simp [State.t, bitT, bitQ]
@[simp] theorem State.setQ_q (b : Bool) : (s.setQ b).q = b := by simp [State.q, bitQ]
@[simp] theorem State.setQ_m (b : Bool) : (s.setQ b).m = s.m := by simp [State.m, bitQ, bitM]
@[simp] theorem State.setQ_sBit (b : Bool) : (s.setQ b).sBit = s.sBit := by simp [State.sBit, bitQ, bitS]
@[simp] theorem State.setM_t (b : Bool) : (s.setM b).t = s.t := by simp [State.t, bitT, bitM]
@[simp] theorem State.setM_q (b : Bool) : (s.setM b).q = s.q := by simp [State.q, bitQ, bitM]
@[simp] theorem State.setM_m (b : Bool) : (s.setM b).m = b := by simp [State.m, bitM]
@[simp] theorem State.setM_sBit (b : Bool) : (s.setM b).sBit = s.sBit := by simp [State.sBit, bitM, bitS]

/-- The mask is not touched by a write of a bit outside it. -/
theorem imask_of_bits {s t : State} (h : ∀ i, 4 ≤ i → i < 8 → t.sr.getLsbD i = s.sr.getLsbD i) : t.imask = s.imask := by
  unfold State.imask
  ext i hi
  simp only [BitVec.getElem_extractLsb']
  exact h _ (by omega) (by omega)

@[simp] theorem State.setT_imask (b : Bool) : (s.setT b).imask = s.imask :=
  imask_of_bits fun i h4 _ => by simp [bitT]; omega

@[simp] theorem State.setQ_imask (b : Bool) : (s.setQ b).imask = s.imask :=
  imask_of_bits fun i _ h8 => by simp [bitQ]; omega

@[simp] theorem State.setM_imask (b : Bool) : (s.setM b).imask = s.imask :=
  imask_of_bits fun i _ h8 => by simp [bitM]; omega

/-- Every bit of SR after entry sets the mask. -/
theorem srWithMask_getLsbD (sr : Word) (l : BitVec 4) (i : Nat) :
    (srWithMask sr l).getLsbD i = if 4 ≤ i ∧ i < 8 then l.getLsbD (i - 4) else sr.getLsbD i := by
  unfold srWithMask
  by_cases hi : i < 32
  · by_cases h8 : i < 8
    · have : i = 0 ∨ i = 1 ∨ i = 2 ∨ i = 3 ∨ i = 4 ∨ i = 5 ∨ i = 6 ∨ i = 7 := by omega
      rcases this with rfl | rfl | rfl | rfl | rfl | rfl | rfl | rfl <;> simp
    · have hk : (0xF0 : Word).getLsbD i = false := by
        have : ∀ j < 32, 8 ≤ j → (0xF0 : Word).getLsbD j = false := by decide
        exact this i hi (by omega)
      have hl : l.getLsbD (i - 4) = false := BitVec.getLsbD_of_ge _ _ (by omega)
      simp only [BitVec.getLsbD_or, BitVec.getLsbD_and, BitVec.getLsbD_not, hk, BitVec.getLsbD_shiftLeft, BitVec.getLsbD_setWidth, hl]
      simp [hi, h8]
  · have h1 : sr.getLsbD i = false := BitVec.getLsbD_of_ge _ _ (by omega)
    rw [BitVec.getLsbD_of_ge _ _ (by omega), h1]
    simp; omega

/-- Reserved bits clear, bit by bit. -/
theorem srReservedClear_iff (w : Word) :
    SrReservedClear w ↔ ∀ i < 32, srMask.getLsbD i = false → w.getLsbD i = false := by
  unfold SrReservedClear
  constructor
  · intro h i hi hm
    have := congrArg (·.getLsbD i) h
    simp only [BitVec.getLsbD_and, BitVec.getLsbD_not, hi, hm, decide_true, Bool.not_false, Bool.and_true] at this
    simpa using this
  · intro h
    apply BitVec.eq_of_getLsbD_eq
    intro i hi
    rw [BitVec.getLsbD_and, BitVec.getLsbD_not, decide_eq_true hi, Bool.true_and]
    cases hm : srMask.getLsbD i
    · rw [h i hi hm]; simp
    · simp

theorem srReservedClear_masked (v : Word) : SrReservedClear (v &&& srMask) := by
  unfold SrReservedClear
  ext i hi
  simp

theorem srReservedClear_setBit {w : Word} (h : SrReservedClear w) {i : Nat} (hi : srMask.getLsbD i = true) (b : Bool) :
    SrReservedClear (setBit w i b) := by
  rw [srReservedClear_iff] at *
  intro j hj hm
  rw [setBit_getLsbD, if_neg, h j hj hm]
  rintro ⟨rfl, -⟩
  simp [hi] at hm

theorem srReservedClear_withMask {w : Word} (h : SrReservedClear w) (l : BitVec 4) : SrReservedClear (srWithMask w l) := by
  rw [srReservedClear_iff] at *
  intro j hj hm
  rw [srWithMask_getLsbD]
  split
  · next hr =>
    have : ∀ j < 8, 4 ≤ j → srMask.getLsbD j = true := by decide
    simp [this j hr.2 hr.1] at hm
  · exact h j hj hm

end Sys2Proof.Machine
end

