-- ==== Sys2Proof/Laws/Frames.lean ====
section
/-! SUPPORT. How `Frame` is built up: it holds of no change beyond other masters' writes, and each update of
the state keeps it when it writes only what the frame names. -/

namespace Sys2Proof.Machine

variable {w : Writes} {s t : State}

theorem Frame.arbitrated (w : Writes) (s : State) : Frame w s (s.arbitrated w.accesses) := by
  rw [s.arbitrated_eq w.accesses]
  exact {
    regs := fun _ _ => rfl
    sr := fun _ _ => rfl
    gbr := fun _ => rfl
    vbr := fun _ => rfl
    pr := fun _ => rfl
    mach := fun _ => rfl
    macl := fun _ => rfl
    inFlight := fun _ => ⟨rfl, rfl⟩
    memory := fun k a _ => by rw [← s.arbitrated_eq w.accesses]
    marked := fun a h => .inl (by rw [s.arbitrated_eq w.accesses]; exact h)
    stillMarked := fun a h => by rw [s.arbitrated_eq w.accesses] at h; exact h
    fetchedAt := rfl
    mode := rfl
    platform := rfl
    map := rfl
    inputs := rfl
    between := rfl
    tick := rfl }

/-- An instruction with no data access starts from the state itself, one with one or two from the state its last access is
made in. -/
theorem Frame.refl {w : Writes} (s : State) (h : w.accesses = 0) : Frame w s s := by
  have := Frame.arbitrated w s
  rwa [h] at this

theorem Frame.one {w : Writes} (s : State) (h : w.accesses = 1) : Frame w s s.arbitrate := by
  have := Frame.arbitrated w s
  rwa [h] at this

theorem Frame.two {w : Writes} (s : State) (h : w.accesses = 2) : Frame w s s.arbitrate.arbitrate := by
  have := Frame.arbitrated w s
  rwa [h] at this

theorem Frame.advance (h : Frame w s t) : Frame w s t.advance := { h with }

theorem Frame.branchDelayed (h : Frame w s t) (a : Word) : Frame w s (t.branchDelayed a) := { h with }

theorem Frame.setPc (h : Frame w s t) (a : Word) : Frame w s { t with pc := a } := { h with }

theorem Frame.setReg (h : Frame w s t) {n : Reg} (hn : n ∈ w.regs) (v : Word) : Frame w s (t.setReg n v) :=
  { h with
    regs := fun r hr => by
      have : r ≠ n := fun e => hr (e ▸ hn)
      simpa [this] using h.regs r hr }

theorem Frame.setBit_sr (h : Frame w s t) {i : Nat} (hi : i ∈ w.srBits) (b : Bool) :
    ∀ j, j ∉ w.srBits → (setBit t.sr i b).getLsbD j = s.sr.getLsbD j := fun j hj => by
  have : j ≠ i := fun e => hj (e ▸ hi)
  rw [setBit_getLsbD, if_neg (fun e => this e.1)]
  exact h.sr j hj

theorem Frame.setT (h : Frame w s t) (hi : bitT ∈ w.srBits) (b : Bool) : Frame w s (t.setT b) :=
  { h with sr := h.setBit_sr hi b }

theorem Frame.setQ (h : Frame w s t) (hi : bitQ ∈ w.srBits) (b : Bool) : Frame w s (t.setQ b) :=
  { h with sr := h.setBit_sr hi b }

theorem Frame.setM (h : Frame w s t) (hi : bitM ∈ w.srBits) (b : Bool) : Frame w s (t.setM b) :=
  { h with sr := h.setBit_sr hi b }

/-- Where every bit of SR may change, SR may be anything. -/
theorem Frame.setSr (h : Frame w s t) (hw : w.srBits = allSrBits) (v : Word) : Frame w s (t.setSr v) :=
  { h with
    sr := fun j hj => by
      have hge : 32 ≤ j := by
        rw [hw, allSrBits, List.mem_range] at hj
        omega
      rw [BitVec.getLsbD_of_ge _ _ hge, BitVec.getLsbD_of_ge _ _ hge] }

theorem Frame.setMac (h : Frame w s t) (h1 : w.mach = true) (h2 : w.macl = true) (v : BitVec 64) :
    Frame w s (t.setMac v) :=
  { h with
    mach := fun e => by simp [h1] at e
    macl := fun e => by simp [h2] at e }

theorem Frame.withMacl (h : Frame w s t) (h1 : w.macl = true) (v : Word) : Frame w s { t with macl := v } :=
  { h with macl := fun e => by simp [h1] at e }

theorem Frame.multiplied (h : Frame w s t) (h1 : w.inFlight = true) : Frame w s t.multiplied :=
  { h with inFlight := fun e => by simp [h1] at e }

theorem Frame.setGbr (h : Frame w s t) (h1 : w.gbr = true) (v : Word) : Frame w s (t.setGbr v) :=
  { h with gbr := fun e => by simp [h1] at e }

theorem Frame.setVbr (h : Frame w s t) (h1 : w.vbr = true) (v : Word) : Frame w s (t.setVbr v) :=
  { h with vbr := fun e => by simp [h1] at e }

theorem Frame.setPr (h : Frame w s t) (h1 : w.pr = true) (v : Word) : Frame w s (t.setPr v) :=
  { h with pr := fun e => by simp [h1] at e }

theorem Frame.link (h : Frame w s t) (h1 : w.pr = true) : Frame w s t.link :=
  { h with pr := fun e => by simp [h1] at e }

theorem Frame.setMach (h : Frame w s t) (h1 : w.mach = true) (h2 : w.inFlight = true) (v : Word) :
    Frame w s (t.setMach v) :=
  { h with
    mach := fun e => by simp [h1] at e
    inFlight := fun e => by simp [h2] at e }

theorem Frame.setMacl (h : Frame w s t) (h1 : w.macl = true) (h2 : w.inFlight = true) (v : Word) :
    Frame w s (t.setMacl v) :=
  { h with
    macl := fun e => by simp [h1] at e
    inFlight := fun e => by simp [h2] at e }

/-- Stores to addresses the frame names. -/
theorem Frame.storeBytes (h : Frame w s t) {bs : List (Word × Byte)} (hb : ∀ p ∈ bs, p.1 ∈ w.stored) :
    Frame w s (t.storeBytes bs) where
  regs r hr := by simpa using h.regs r hr
  sr i hi := by simpa using h.sr i hi
  gbr e := by simpa using h.gbr e
  vbr e := by simpa using h.vbr e
  pr e := by simpa using h.pr e
  mach e := by simpa using h.mach e
  macl e := by simpa using h.macl e
  inFlight e := by simpa using h.inFlight e
  memory k a ha := by
    rw [t.storeBytes_byteAt_of_notMem bs k a fun p hp e => ha (e ▸ hb p hp)]
    exact h.memory k a ha
  marked a ha := by
    rcases (t.mem_storeBytes_storedAt bs a).1 ha with ha | ⟨p, hp, rfl⟩
    · exact h.marked a ha
    · exact .inr ⟨p.1, hb p hp, rfl⟩
  stillMarked a ha := (t.mem_storeBytes_storedAt bs a).2 (.inl (h.stillMarked a ha))
  fetchedAt := by simpa using h.fetchedAt
  mode := by simpa using h.mode
  platform := by simpa using h.platform
  map := by simpa using h.map
  inputs := by simpa using h.inputs
  between := by simpa using h.between
  tick := by simpa using h.tick

/-- The store of a datum. -/
theorem Frame.store (h : Frame w s t) {sz : Size} {a : Word} (hb : ∀ b ∈ span sz a, b ∈ w.stored) (v : Word) :
    Frame w s (t.storeBytes (bytesOf sz a v)) :=
  h.storeBytes fun _ hp => hb _ (mem_span_of_mem_bytesOf hp)

/-- What the updates after a store leave of the stored bytes. -/
theorem Holds.of_eq {t u : State} {sz : Size} {a v : Word} (h : Holds t sz a v) (hk : ∀ b, u.kindAt b = t.kindAt b)
    (hb : ∀ k b, u.byteAt k b = t.byteAt k b) : Holds u sz a v := by
  cases sz <;> simpa only [Holds, hk, hb] using h

end Sys2Proof.Machine
end

