-- ==== Sys2Proof/Laws/Meanings.lean ====
section
/-! SUPPORT. The shared operations of the families: the ways each answers a next state. -/

namespace Sys2Proof.Machine

/-! ### Data transfer -/

theorem loadInto_next {s t : State} {sz : Size} {a : Word} {n : Reg} (h : loadInto s sz a n = .next t) :
    (aligned sz a = true ∧ s.mapped sz a = true ∧
        t = (s.arbitrate.setReg n (loadedValue s.arbitrate 0 sz a)).advance) ∨
      addressErrorEntry s = .next t := by
  obtain ⟨h1, h2, h3⟩ | ⟨-, h3⟩ := readThen_next h
  · rw [loadExtend_readValue] at h3
    exact .inl ⟨h1, h2, (Host.Outcome.next.inj h3).symm⟩
  · exact .inr h3

theorem loadIncInto_next {s t : State} {sz : Size} {m n : Reg} (h : loadIncInto s sz m n = .next t) :
    (aligned sz (s.reg m) = true ∧ s.mapped sz (s.reg m) = true ∧
      t = ((s.arbitrate.setReg m (s.reg m + sz.bytes)).setReg n (loadedValue s.arbitrate 0 sz (s.reg m))).advance) ∨
      addressErrorEntry (s.baseAfterError 0 m (s.reg m + sz.bytes)) = .next t := by
  obtain ⟨h1, h2, h3⟩ | ⟨-, h3⟩ := readThen_next h
  · rw [loadExtend_readValue] at h3
    exact .inl ⟨h1, h2, (Host.Outcome.next.inj h3).symm⟩
  · exact .inr h3

theorem storeFrom_next {s t : State} {sz : Size} {a v : Word} (h : storeFrom s sz a v = .next t) :
    (aligned sz a = true ∧ s.mapped sz a = true ∧ s.writable sz a = true ∧
      t = (s.arbitrate.storeBytes (bytesOf sz a v)).advance) ∨
      addressErrorEntry s = .next t := by
  obtain ⟨h1, h2, h3, h4⟩ | ⟨-, h4⟩ := writeThen_next h
  · exact .inl ⟨h1, h2, h3, (Host.Outcome.next.inj h4).symm⟩
  · exact .inr h4

theorem storeDecFrom_next {s t : State} {sz : Size} {n : Reg} {v : Word} (h : storeDecFrom s sz n v = .next t) :
    (aligned sz (s.reg n - sz.bytes) = true ∧ s.mapped sz (s.reg n - sz.bytes) = true ∧
      s.writable sz (s.reg n - sz.bytes) = true ∧
      t = ((s.arbitrate.storeBytes (bytesOf sz (s.reg n - sz.bytes) v)).setReg n (s.reg n - sz.bytes)).advance) ∨
      addressErrorEntry (s.baseAfterError 0 n (s.reg n - sz.bytes)) = .next t := by
  obtain ⟨h1, h2, h3, h4⟩ | ⟨-, h4⟩ := writeThen_next h
  · exact .inl ⟨h1, h2, h3, (Host.Outcome.next.inj h4).symm⟩
  · exact .inr h4

/-! ### Multiply and accumulate -/

/-- The state after both reads of MAC: each register advanced, twice when they are one (R193), and what other masters
wrote before each read in memory. -/
def State.macAdvanced (s : State) (sz : Size) (m n : Reg) : State :=
  (s.arbitrate.arbitrate.setReg n (s.reg n + sz.bytes)).setReg m ((s.setReg n (s.reg n + sz.bytes)).reg m + sz.bytes)

/-- What MAC leaves before the address error of a misaligned operand: each register old or advanced (U2, log 5). -/
def State.LeftByMac (s : State) (sz : Size) (m n : Reg) (u : State) : Prop :=
  ∃ x y, (x = s.reg n ∨ x = s.reg n + sz.bytes) ∧
    (y = (s.setReg n x).reg m ∨ y = (s.setReg n x).reg m + sz.bytes) ∧ u = (s.setReg n x).setReg m y

theorem macOperands_next {s t : State} {sz : Size} {m n : Reg} {f : State → Word → Word → Result}
    (h : macOperands s sz m n f = .next t) :
    (aligned sz (s.reg n) = true ∧ s.mapped sz (s.reg n) = true ∧
      aligned sz ((s.setReg n (s.reg n + sz.bytes)).reg m) = true ∧
      s.mapped sz ((s.setReg n (s.reg n + sz.bytes)).reg m) = true ∧
      f (s.macAdvanced sz m n) (s.arbitrate.readValue 0 sz (s.reg n))
        (s.arbitrate.arbitrate.readValue 1 sz ((s.setReg n (s.reg n + sz.bytes)).reg m)) = .next t) ∨
      ∃ u, (s.LeftByMac sz m n u ∨ s.arbitrate.LeftByMac sz m n u) ∧ addressErrorEntry u = .next t := by
  have herr (r : State) : r.LeftByMac sz m n ((r.baseAfterError 0 n (incremented r sz n)).baseAfterError 1 m
      (incremented (r.baseAfterError 0 n (incremented r sz n)) sz m)) := by
    have hself (u : State) (q : Reg) : u.setReg q (u.reg q) = u := by simp [State.setReg, State.reg]
    rcases r.baseAfterError_cases 0 n (incremented r sz n) with h1 | h1 <;> rw [h1]
    · refine ⟨r.reg n, ?_⟩
      rcases r.baseAfterError_cases 1 m (incremented r sz m) with h2 | h2 <;> rw [h2, hself]
      · exact ⟨r.reg m, .inl rfl, .inl rfl, (hself r m).symm⟩
      · exact ⟨r.reg m + sz.bytes, .inl rfl, .inr rfl, rfl⟩
    · refine ⟨r.reg n + sz.bytes, ?_⟩
      rcases (r.setReg n (incremented r sz n)).baseAfterError_cases 1 m
          (incremented (r.setReg n (incremented r sz n)) sz m) with h2 | h2 <;> rw [h2]
      · exact ⟨_, .inr rfl, .inl rfl, (hself _ m).symm⟩
      · exact ⟨_, .inr rfl, .inr rfl, rfl⟩
  dsimp only [macOperands] at h
  obtain ⟨a1, m1, h1⟩ | ⟨-, h1⟩ := readThen_next h
  · obtain ⟨a2, m2, h2⟩ | ⟨-, h2⟩ := readThen_next h1
    · exact .inl ⟨a1, m1, a2, m2, h2⟩
    · exact .inr ⟨_, .inr (herr _), h2⟩
  · exact .inr ⟨_, .inl (herr s), h1⟩

/-! ### Memory forms of the logic instructions -/

theorem modifyByte_next {s t : State} {f : Word → Word} (h : modifyByte s f = .next t) :
    s.mapped .byte (s.gbr + s.reg 0) = true ∧ s.writable .byte (s.gbr + s.reg 0) = true ∧
      t = (s.arbitrate.arbitrate.storeBytes (bytesOf .byte (s.gbr + s.reg 0)
        (f ((s.arbitrate.byteAt 0 (s.gbr + s.reg 0)).setWidth 32)))).advance := by
  obtain ⟨-, -, h1⟩ | ⟨h1, -⟩ := readThen_next h
  · obtain ⟨-, h2, h3, h4⟩ | ⟨h2, -⟩ := writeThen_next h1
    · exact ⟨h2, h3, (Host.Outcome.next.inj h4).symm⟩
    · simp [aligned] at h2
  · simp [aligned] at h1

/-! ### Branches -/

theorem branchConditionalDelayed_next {s t : State} {taken : Bool} {target : Word}
    (h : branchConditionalDelayed s taken target = .next t) :
    (taken = true ∧ t = s.branchDelayed target) ∨
      (taken = false ∧ s.branchFollows = false ∧ t = { s with pc := s.pc + 2 }) := by
  unfold branchConditionalDelayed at h
  split at h
  · next ht => exact .inl ⟨ht, (Host.Outcome.next.inj h).symm⟩
  · next ht =>
    split at h
    · cases h
    · next hf => exact .inr ⟨by simpa using ht, by simpa using hf, (Host.Outcome.next.inj h).symm⟩

/-! ### System control -/

theorem loadSystem_next {s t : State} {m : Reg} {put : State → Word → State} (h : loadSystem s m put = .next t) :
    (aligned .long (s.reg m) = true ∧ s.mapped .long (s.reg m) = true ∧
      t = (put (s.arbitrate.setReg m (s.reg m + 4)) (loadedValue s.arbitrate 0 .long (s.reg m))).advance) ∨
      addressErrorEntry (s.baseAfterError 0 m (s.reg m + 4)) = .next t := by
  obtain ⟨h1, h2, h3⟩ | ⟨-, h3⟩ := readThen_next h
  · exact .inl ⟨h1, h2, (Host.Outcome.next.inj h3).symm⟩
  · exact .inr h3

theorem pushSystem_next {s t : State} {n : Reg} {v : Word} (h : pushSystem s n v = .next t) :
    (aligned .long (s.reg n - 4) = true ∧ s.mapped .long (s.reg n - 4) = true ∧
      s.writable .long (s.reg n - 4) = true ∧
      t = ((s.arbitrate.storeBytes (bytesOf .long (s.reg n - 4) v)).setReg n (s.reg n - 4)).advance) ∨
      addressErrorEntry (s.baseAfterError 0 n (s.reg n - 4)) = .next t := by
  obtain ⟨h1, h2, h3, h4⟩ | ⟨-, h4⟩ := writeThen_next h
  · exact .inl ⟨h1, h2, h3, (Host.Outcome.next.inj h4).symm⟩
  · exact .inr h4

end Sys2Proof.Machine
end

