-- ==== Sys2Proof/Tests/Slice0.lean ====
section
/-! SUPPORT. Tests. Words and expected values are written from the spec: the code columns of 40_data_transfer.md to
45_system_control.md, the worked examples and the derived vectors of 95_test_vectors.md (their names, as in "T1", stand
in the comments). At the end, for each statement of Certificates/Slice0/Obligations.lean that has hypotheses, a state and
operands that meet them. -/

open Sys2Proof Sys2Proof.Machine

namespace Sys2Proof.Tests.Slice0

/-! ### Helpers -/

/-- The start state of 95_test_vectors.md: pc = H'1000, registers 0, SR = H'F0; then registers and memory as given. -/
def start (rs : List (Reg × Word)) (ram : List (Word × Byte)) : State :=
  rs.foldl (fun s r => s.setReg r.1 r.2) ({ State.reset with pc := 0x1000 }.busWrites ram)

/-- A longword's bytes in memory. -/
def long (a v : Word) : List (Word × Byte) := bytesOf .long a v

/-- One step with the word placed at pc. -/
def stepOn (w : Half) (s : State) : Result := step (s.withFetchWord 16 w.toNat)

/-- The same while other masters write: entry k of `ws` before the step's data access number k + 1. -/
def stepAmong (ws : List (List (Word × Byte))) (w : Half) (s : State) : Result :=
  step { s.withFetchWord 16 w.toNat with inputs := [{ Input.idle with between := ws }] }

/-- A next state that has the property. -/
def yields (o : Result) (p : State → Bool) : Bool :=
  match o with
  | .next t => p t
  | .fault _ => false
  | .refused _ => false

/-- The outcome is that fault. -/
def faults (o : Result) (r : Fault) : Bool :=
  match o with
  | .next _ => false
  | .fault q => q == r
  | .refused _ => false

/-- The outcome is that refusal. -/
def refuses (o : Result) (r : Refusal) : Bool :=
  match o with
  | .next _ => false
  | .fault _ => false
  | .refused q => q == r

/-- The word is the instruction, and one step on it gives the result. -/
abbrev Runs (w : Half) (i : Instr) (s : State) (p : State → Bool) : Prop :=
  decode w = .ok i ∧ yields (stepOn w s) p = true

/-- The longword memory holds. -/
def longAt (t : State) (a : Word) : Word := t.readValue 0 .long a

/-- The byte memory holds. -/
def byteIn (t : State) (a : Word) : Byte := t.byteAt 0 a

/-! ### Well-formedness: each check refuses an ill-formed placement (R253, R254) -/

theorem test_branch_class_is_ill_formed_in_a_slot :
    (Instr.bra 0).wellFormed true = false ∧ (Instr.bf 0).wellFormed true = false ∧
    Instr.rte.wellFormed true = false ∧ (Instr.trapa 0).wellFormed true = false ∧
    (Instr.bra 0).wellFormed false = true := by decide

theorem test_pc_operand_is_ill_formed_in_a_slot :
    (Instr.movWPc 0 1).wellFormed true = false ∧ (Instr.movLPc 0 1).wellFormed true = false ∧
    (Instr.mova 0).wellFormed true = false ∧ (Instr.mova 0).wellFormed false = true ∧
    Instr.nop.wellFormed true = true := by decide

/-! ### Decoding: the remaining opcode rows, words written from the code columns; reserved words (R108) -/

theorem test_undefined_words :
    decode 0xFFFF = .error (.undefinedWord 0xFFFF) ∧ decode 0x0000 = .error (.undefinedWord 0x0000) ∧
    decode 0x0032 = .error (.undefinedWord 0x0032) ∧ decode 0x0108 = .error (.undefinedWord 0x0108) ∧
    decode 0x4014 = .error (.undefinedWord 0x4014) ∧ decode 0x8200 = .error (.undefinedWord 0x8200) := by decide

theorem test_encoder_writes_the_code_column :
    encode (.movImm 0x80 1) = 0xE180 ∧ encode (.movLStoreDisp 2 15 1) = 0x112F ∧ encode (.bra 0xFFE) = 0xAFFE ∧
    encode (.movWLoadDisp 3 2) = 0x8523 ∧ encode (.ldsLPr 15) = 0x4F26 ∧ encode .rte = 0x002B := by decide

theorem test_decode_bytes : decodeBytes [0xE1, 0x80, 0x00] = .ok (.movImm 0x80 1, [0x00]) ∧
    decodeBytes [0xE1] = .error .truncated ∧ decodeTableWord 16 0x312C = some (.addR 2 1) := by decide

/-! ### Data transfer -/

/-- T1. -/
theorem test_mov_imm : Runs 0xE180 (.movImm 0x80 1) (start [] []) (·.reg 1 == 0xFFFFFF80) := by decide

/-- T3. -/
theorem test_mov_w_pc : Runs 0x9101 (.movWPc 1 1) (start [] [(0x1006, 0x82), (0x1007, 0x34)])
    (·.reg 1 == 0xFFFF8234) := by decide

/-- T4: pc = H'1002. -/
theorem test_mov_l_pc_masks_pc : Runs 0xD101 (.movLPc 1 1) { start [] (long 0x1008 0x12345678) with pc := 0x1002 }
    (·.reg 1 == 0x12345678) := by decide

/-- T6. -/
theorem test_mov : Runs 0x6123 (.mov 2 1) (start [(2, 0xDEADBEEF)] []) (·.reg 1 == 0xDEADBEEF) := by decide

/-- T7. -/
theorem test_mov_b_store : Runs 0x2120 (.movBStore 2 1) (start [(1, 0x2000), (2, 0x123456AB)] [])
    (longAt · 0x2000 == 0xAB000000) := by decide

/-- T8. -/
theorem test_mov_w_store : Runs 0x2121 (.movWStore 2 1) (start [(1, 0x2000), (2, 0x123456AB)] [])
    (longAt · 0x2000 == 0x56AB0000) := by decide

/-- T9. -/
theorem test_mov_l_store : Runs 0x2122 (.movLStore 2 1) (start [(1, 0x2000), (2, 0x123456AB)] [])
    (longAt · 0x2000 == 0x123456AB) := by decide

/-- T10. -/
theorem test_mov_b_load : Runs 0x6120 (.movBLoad 2 1) (start [(2, 0x2000)] [(0x2000, 0x80)])
    (·.reg 1 == 0xFFFFFF80) := by decide

/-- T11. -/
theorem test_mov_w_load : Runs 0x6121 (.movWLoad 2 1) (start [(2, 0x2000)] (long 0x2000 0x80010000))
    (·.reg 1 == 0xFFFF8001) := by decide

/-- T12. -/
theorem test_mov_l_load : Runs 0x6122 (.movLLoad 2 1) (start [(2, 0x2000)] (long 0x2000 0x80010203))
    (·.reg 1 == 0x80010203) := by decide

/-- T13. -/
theorem test_mov_b_store_dec : Runs 0x2124 (.movBStoreDec 2 1) (start [(1, 0x2001), (2, 0xAB)] [])
    (fun t => t.reg 1 == 0x2000 && byteIn t 0x2000 == 0xAB) := by decide

/-- T14. -/
theorem test_mov_w_store_dec : Runs 0x2125 (.movWStoreDec 2 1) (start [(1, 0x2002), (2, 0xABCD)] [])
    (fun t => t.reg 1 == 0x2000 && longAt t 0x2000 == 0xABCD0000) := by decide

/-- T16: one register for both, D20. -/
theorem test_mov_l_store_dec_same : Runs 0x2116 (.movLStoreDec 1 1) (start [(1, 0x2004)] [])
    (fun t => t.reg 1 == 0x2000 && longAt t 0x2000 == 0x00002004) := by decide

/-- T17: the address wraps. -/
theorem test_mov_l_store_dec_wraps : Runs 0x2126 (.movLStoreDec 2 1) (start [(2, 0x55)] [])
    (fun t => t.reg 1 == 0xFFFFFFFC && longAt t 0xFFFFFFFC == 0x55) := by decide

/-- T18. -/
theorem test_mov_b_load_inc : Runs 0x6124 (.movBLoadInc 2 1) (start [(2, 0x2000)] [(0x2000, 0xFF)])
    (fun t => t.reg 1 == 0xFFFFFFFF && t.reg 2 == 0x2001) := by decide

/-- T19. -/
theorem test_mov_w_load_inc : Runs 0x6125 (.movWLoadInc 2 1) (start [(2, 0x2000)] (long 0x2000 0x7FFF0000))
    (fun t => t.reg 1 == 0x00007FFF && t.reg 2 == 0x2002) := by decide

/-- T20. -/
theorem test_mov_l_load_inc : Runs 0x61F6 (.movLLoadInc 15 1) (start [(15, 0x2000)] (long 0x2000 0x11223344))
    (fun t => t.reg 1 == 0x11223344 && t.reg 15 == 0x2004) := by decide

/-- T21: one register for both, D20. -/
theorem test_mov_l_load_inc_same : Runs 0x6116 (.movLLoadInc 1 1) (start [(1, 0x2000)] (long 0x2000 0x11223344))
    (·.reg 1 == 0x11223344) := by decide

/-- T22. -/
theorem test_mov_b_store_disp : Runs 0x8013 (.movBStoreDisp 3 1) (start [(0, 0xAB), (1, 0x2000)] [])
    (byteIn · 0x2003 == 0xAB) := by decide

/-- T23. -/
theorem test_mov_w_store_disp : Runs 0x8113 (.movWStoreDisp 3 1) (start [(0, 0xABCD), (1, 0x2000)] [])
    (longAt · 0x2004 == 0x0000ABCD) := by decide

/-- T24. -/
theorem test_mov_l_store_disp : Runs 0x112F (.movLStoreDisp 2 15 1) (start [(1, 0x2000), (2, 0xA1B2C3D4)] [])
    (longAt · 0x203C == 0xA1B2C3D4) := by decide

/-- T25. -/
theorem test_mov_b_load_disp : Runs 0x842F (.movBLoadDisp 15 2) (start [(2, 0x2000)] [(0x200F, 0x90)])
    (·.reg 0 == 0xFFFFFF90) := by decide

/-- T26. -/
theorem test_mov_w_load_disp : Runs 0x8523 (.movWLoadDisp 3 2) (start [(2, 0x2000)] [(0x2006, 0x90)])
    (·.reg 0 == 0xFFFF9000) := by decide

/-- T27. -/
theorem test_mov_l_load_disp : Runs 0x5123 (.movLLoadDisp 3 2 1) (start [(2, 0x2000)] (long 0x200C 0x01020304))
    (·.reg 1 == 0x01020304) := by decide

/-- T28: R0 + Rn wraps. -/
theorem test_mov_b_store_idx : Runs 0x0124 (.movBStoreIdx 2 1) (start [(0, 0xFFFFFFFF), (1, 0x2001), (2, 0x77)] [])
    (byteIn · 0x2000 == 0x77) := by decide

/-- T29. -/
theorem test_mov_w_store_idx : Runs 0x0125 (.movWStoreIdx 2 1) (start [(0, 4), (1, 0x2000), (2, 0x7788)] [])
    (longAt · 0x2004 == 0x77880000) := by decide

/-- T30. -/
theorem test_mov_l_store_idx : Runs 0x0126 (.movLStoreIdx 2 1) (start [(0, 4), (1, 0x2000), (2, 0x778899AA)] [])
    (longAt · 0x2004 == 0x778899AA) := by decide

/-- T31. -/
theorem test_mov_b_load_idx : Runs 0x012C (.movBLoadIdx 2 1) (start [(0, 4), (2, 0x2000)] [(0x2004, 0x81)])
    (·.reg 1 == 0xFFFFFF81) := by decide

/-- T32. -/
theorem test_mov_w_load_idx : Runs 0x012D (.movWLoadIdx 2 1) (start [(0, 4), (2, 0x2000)] [(0x2004, 0x81)])
    (·.reg 1 == 0xFFFF8100) := by decide

/-- T33. -/
theorem test_mov_l_load_idx : Runs 0x012E (.movLLoadIdx 2 1) (start [(0, 4), (2, 0x2000)] [(0x2004, 0x81)])
    (·.reg 1 == 0x81000000) := by decide

/-- T34. -/
theorem test_mov_b_store_gbr : Runs 0xC005 (.movBStoreGbr 5) { start [(0, 0x1234)] [] with gbr := 0x2000 }
    (byteIn · 0x2005 == 0x34) := by decide

/-- T35: the displacement is zero-extended. -/
theorem test_mov_w_store_gbr : Runs 0xC1FF (.movWStoreGbr 255) { start [(0, 0x1234)] [] with gbr := 0x2000 }
    (longAt · 0x21FC == 0x00001234) := by decide

/-- T36. -/
theorem test_mov_l_store_gbr : Runs 0xC202 (.movLStoreGbr 2) { start [(0, 0x12345678)] [] with gbr := 0x2000 }
    (longAt · 0x2008 == 0x12345678) := by decide

/-- T37. -/
theorem test_mov_b_load_gbr : Runs 0xC405 (.movBLoadGbr 5) { start [] [(0x2005, 0xFE)] with gbr := 0x2000 }
    (·.reg 0 == 0xFFFFFFFE) := by decide

/-- T38. -/
theorem test_mov_w_load_gbr :
    Runs 0xC5FF (.movWLoadGbr 255) { start [] [(0x21FE, 0xFE), (0x21FF, 0xDC)] with gbr := 0x2000 }
      (·.reg 0 == 0xFFFFFEDC) := by decide

/-- T39. -/
theorem test_mov_l_load_gbr : Runs 0xC602 (.movLLoadGbr 2) { start [] (long 0x2008 0xFEDCBA98) with gbr := 0x2000 }
    (·.reg 0 == 0xFEDCBA98) := by decide

/-- T40: pc = H'1002. -/
theorem test_mova : Runs 0xC702 (.mova 2) { start [] [] with pc := 0x1002 } (·.reg 0 == 0x100C) := by decide

/-- T41. -/
theorem test_movt : Runs 0x0129 (.movt 1) { start [(1, 0xFFFFFFFF)] [] with sr := 0xF1 } (·.reg 1 == 1) := by decide

/-- T42, D39. -/
theorem test_swap_b : Runs 0x6128 (.swapB 2 1) (start [(2, 0x12345678)] []) (·.reg 1 == 0x12347856) := by decide

/-- T43. -/
theorem test_swap_w : Runs 0x6129 (.swapW 2 1) (start [(2, 0x12345678)] []) (·.reg 1 == 0x56781234) := by decide

/-- T44. -/
theorem test_xtrct : Runs 0x212D (.xtrct 2 1) (start [(1, 0x9ABCDEF0), (2, 0x12345678)] [])
    (·.reg 1 == 0x56789ABC) := by decide

/-! ### Arithmetic -/

/-- A1: T stays. -/
theorem test_add : Runs 0x312C (.addR 2 1) { start [(1, 0xFFFFFFFF), (2, 2)] [] with sr := 0xF1 }
    (fun t => t.reg 1 == 1 && t.t) := by decide

/-- A2. -/
theorem test_add_imm : Runs 0x71FF (.addImm 0xFF 1) (start [] []) (·.reg 1 == 0xFFFFFFFF) := by decide

/-- A3: the carry comes from the carry in. -/
theorem test_addc_carries : Runs 0x312E (.addc 2 1) { start [(1, 0xFFFFFFFF)] [] with sr := 0xF1 }
    (fun t => t.reg 1 == 0 && t.t) := by decide

/-- A4. -/
theorem test_addc_clears : Runs 0x312E (.addc 2 1) { start [(1, 1), (2, 2)] [] with sr := 0xF1 }
    (fun t => t.reg 1 == 4 && !t.t) := by decide

/-- A5. -/
theorem test_addv_overflows : Runs 0x312F (.addv 2 1) (start [(1, 0x7FFFFFFF), (2, 1)] [])
    (fun t => t.reg 1 == 0x80000000 && t.t) := by decide

/-- A7. -/
theorem test_addv_clears : Runs 0x312F (.addv 2 1) { start [(1, 0xFFFFFFFF), (2, 0xFFFFFFFF)] [] with sr := 0xF1 }
    (fun t => t.reg 1 == 0xFFFFFFFE && !t.t) := by decide

/-- A8, A9: the immediate is sign-extended. -/
theorem test_cmp_eq_imm : Runs 0x88FF (.cmpEqImm 0xFF) (start [(0, 0xFFFFFFFF)] []) (·.t) ∧
    yields (stepOn 0x88FF { start [(0, 0xFF)] [] with sr := 0xF1 }) (!·.t) := by decide

/-- A10. -/
theorem test_cmp_eq : Runs 0x3120 (.cmpEq 2 1) (start [(1, 5), (2, 5)] []) (·.t) := by decide

/-- A11: unsigned. -/
theorem test_cmp_hs : Runs 0x3122 (.cmpHs 2 1) (start [(1, 0x80000000), (2, 1)] []) (·.t) := by decide

/-- A12: signed. -/
theorem test_cmp_ge : Runs 0x3123 (.cmpGe 2 1) { start [(1, 0x80000000), (2, 1)] [] with sr := 0xF1 } (!·.t) := by decide

/-- A13: equal is not higher. -/
theorem test_cmp_hi : Runs 0x3126 (.cmpHi 2 1) { start [(1, 7), (2, 7)] [] with sr := 0xF1 } (!·.t) := by decide

/-- A14. -/
theorem test_cmp_gt : Runs 0x3127 (.cmpGt 2 1) (start [(1, 1), (2, 0xFFFFFFFF)] []) (·.t) := by decide

/-- A15, A17. -/
theorem test_cmp_pz : Runs 0x4111 (.cmpPz 1) (start [] []) (·.t) ∧
    yields (stepOn 0x4111 { start [(1, 0x80000000)] [] with sr := 0xF1 }) (!·.t) := by decide

/-- A16. -/
theorem test_cmp_pl : Runs 0x4115 (.cmpPl 1) { start [] [] with sr := 0xF1 } (!·.t) := by decide

/-- A18, A19, D38. -/
theorem test_cmp_str : Runs 0x212C (.cmpStr 2 1) (start [(1, 0x11223344), (2, 0xAA22BBCC)] []) (·.t) ∧
    yields (stepOn 0x212C { start [(1, 0x11223344), (2, 0x22334411)] [] with sr := 0xF1 }) (!·.t) := by decide

/-- A20. -/
theorem test_div0s : Runs 0x2127 (.div0s 2 1) (start [(1, 0x80000000), (2, 1)] [])
    (fun t => t.t && t.q && !t.m) := by decide

/-- A21. -/
theorem test_div0u : Runs 0x0019 .div0u { start [] [] with sr := 0x3F1 } (·.sr == 0xF0) := by decide

/-- A22. -/
theorem test_div1_subtracts : Runs 0x3124 (.div1 2 1) (start [(1, 3), (2, 2)] [])
    (fun t => t.reg 1 == 4 && t.t && !t.q) := by decide

/-- A24: Q differs from M, so the divisor is added. -/
theorem test_div1_adds : Runs 0x3124 (.div1 2 1) { start [(1, 0xFFFFFFFD), (2, 5)] [] with sr := 0x1F0 }
    (fun t => t.reg 1 == 0xFFFFFFFF && !t.t && t.q) := by decide

/-- A25. -/
theorem test_dt_reaches_zero : Runs 0x4110 (.dt 1) (start [(1, 1)] []) (fun t => t.reg 1 == 0 && t.t) := by decide

/-- A26. -/
theorem test_dt_wraps : Runs 0x4110 (.dt 1) { start [] [] with sr := 0xF1 }
    (fun t => t.reg 1 == 0xFFFFFFFF && !t.t) := by decide

/-- A27. -/
theorem test_dmuls : Runs 0x312D (.dmulsL 2 1) (start [(1, 0xFFFFFFFE), (2, 0x5555)] [])
    (fun t => t.mach == 0xFFFFFFFF && t.macl == 0xFFFF5556) := by decide

/-- A28. -/
theorem test_dmulu : Runs 0x3125 (.dmuluL 2 1) (start [(1, 0xFFFFFFFE), (2, 0x5555)] [])
    (fun t => t.mach == 0x5554 && t.macl == 0xFFFF5556) := by decide

/-- A30, A31. -/
theorem test_sign_extensions : Runs 0x612E (.extsB 2 1) (start [(2, 0x12345680)] []) (·.reg 1 == 0xFFFFFF80) ∧
    Runs 0x612F (.extsW 2 1) (start [(2, 0x12348000)] []) (·.reg 1 == 0xFFFF8000) := by decide

/-- A32, A33. -/
theorem test_zero_extensions : Runs 0x612C (.extuB 2 1) (start [(2, 0xFFFFFFFF)] []) (·.reg 1 == 0xFF) ∧
    Runs 0x612D (.extuW 2 1) (start [(2, 0xFFFFFFFF)] []) (·.reg 1 == 0xFFFF) := by decide

/-- A36: the sum is -1. -/
theorem test_mac_l : Runs 0x012F (.macL 2 1)
    { start [(1, 0x2000), (2, 0x2008)] (long 0x2000 0xFFFFFFFF ++ long 0x2008 2) with macl := 1 }
    (fun t => t.mach == 0xFFFFFFFF && t.macl == 0xFFFFFFFF && t.reg 1 == 0x2004 && t.reg 2 == 0x200C) := by decide

/-- A41: S = 1 limits to 48 bits, D18. -/
theorem test_mac_l_saturates : Runs 0x012F (.macL 2 1)
    { start [(1, 0x2000), (2, 0x2008)] (long 0x2000 1 ++ long 0x2008 1) with
      sr := 0xF2, mach := 0x7FFF, macl := 0xFFFFFFFF }
    (fun t => t.mach == 0x7FFF && t.macl == 0xFFFFFFFF) := by decide

/-- A39: one register, two consecutive words, D20. -/
theorem test_mac_w_same : Runs 0x411F (.macW 1 1) (start [(1, 0x2000)] (long 0x2000 0x00020003))
    (fun t => t.macl == 6 && t.reg 1 == 0x2004) := by decide

/-- A40: S = 1 limits to 32 bits and sets bit 0 of MACH, D18. -/
theorem test_mac_w_saturates : Runs 0x412F (.macW 2 1)
    { start [(1, 0x2000), (2, 0x2008)] (long 0x2000 0x10000 ++ long 0x2008 0x10000) with sr := 0xF2, macl := 0x7FFFFFFF }
    (fun t => t.mach == 1 && t.macl == 0x7FFFFFFF) := by decide

/-- A42: MACH stays. -/
theorem test_mul_l : Runs 0x0127 (.mulL 2 1) { start [(1, 0xFFFFFFFF), (2, 2)] [] with mach := 0x1234 }
    (fun t => t.macl == 0xFFFFFFFE && t.mach == 0x1234) := by decide

/-- A43, A44. -/
theorem test_word_products : Runs 0x212F (.mulsW 2 1) (start [(1, 0x1234FFFF), (2, 2)] []) (·.macl == 0xFFFFFFFE) ∧
    Runs 0x212E (.muluW 2 1) (start [(1, 0x1234FFFF), (2, 2)] []) (·.macl == 0x0001FFFE) := by decide

/-- A46. -/
theorem test_neg : Runs 0x612B (.neg 2 1) (start [(2, 0x80000000)] []) (·.reg 1 == 0x80000000) := by decide

/-- A47, A49. -/
theorem test_negc : Runs 0x612A (.negc 2 1) { start [] [] with sr := 0xF1 } (fun t => t.reg 1 == 0xFFFFFFFF && t.t) ∧
    yields (stepOn 0x612A (start [(1, 9)] [])) (fun t => t.reg 1 == 0 && !t.t) := by decide

/-- A50. -/
theorem test_sub : Runs 0x3128 (.subR 2 1) (start [(2, 1)] []) (·.reg 1 == 0xFFFFFFFF) := by decide

/-- A51, A52. -/
theorem test_subc : Runs 0x312A (.subc 2 1) { start [] [] with sr := 0xF1 } (fun t => t.reg 1 == 0xFFFFFFFF && t.t) ∧
    yields (stepOn 0x312A { start [(1, 5), (2, 3)] [] with sr := 0xF1 }) (fun t => t.reg 1 == 1 && !t.t) := by decide

/-- A53. -/
theorem test_subv_overflows : Runs 0x312B (.subv 2 1) (start [(1, 0x80000000), (2, 1)] [])
    (fun t => t.reg 1 == 0x7FFFFFFF && t.t) := by decide

/-- A55. -/
theorem test_subv_clears : Runs 0x312B (.subv 2 1) { start [(2, 1)] [] with sr := 0xF1 }
    (fun t => t.reg 1 == 0xFFFFFFFF && !t.t) := by decide

/-! ### Logic -/

/-- L1, L4, L5, L14. -/
theorem test_register_logic : Runs 0x2129 (.andR 2 1) (start [(1, 0xFF00FF00), (2, 0x0FF00FF0)] []) (·.reg 1 == 0x0F000F00) ∧
    Runs 0x6127 (.notR 2 1) (start [(2, 0x0F0F0F0F)] []) (·.reg 1 == 0xF0F0F0F0) ∧
    Runs 0x212B (.orR 2 1) (start [(1, 0xFF00FF00), (2, 0x0FF00FF0)] []) (·.reg 1 == 0xFFF0FFF0) ∧
    Runs 0x212A (.xorR 2 1) (start [(1, 0xFF00FF00), (2, 0x0FF00FF0)] []) (·.reg 1 == 0xF0F0F0F0) := by decide

/-- L2, L6, L15: the immediate is zero-extended. -/
theorem test_immediate_logic : Runs 0xC90F (.andImm 0x0F) (start [(0, 0xFFFFFFFF)] []) (·.reg 0 == 0x0F) ∧
    Runs 0xCBF0 (.orImm 0xF0) (start [(0, 0x100)] []) (·.reg 0 == 0x1F0) ∧
    Runs 0xCAFF (.xorImm 0xFF) (start [(0, 0xFFFFFFFF)] []) (·.reg 0 == 0xFFFFFF00) := by decide

/-- L3, L7, L16. -/
theorem test_memory_logic :
    Runs 0xCD0F (.andB 0x0F) { start [(0, 4)] [(0x2004, 0xA5)] with gbr := 0x2000 } (byteIn · 0x2004 == 0x05) ∧
    Runs 0xCF50 (.orB 0x50) { start [(0, 4)] [(0x2004, 0x05)] with gbr := 0x2000 } (byteIn · 0x2004 == 0x55) ∧
    Runs 0xCEFF (.xorB 0xFF) { start [(0, 4)] [(0x2004, 0xA5)] with gbr := 0x2000 } (byteIn · 0x2004 == 0x5A) := by decide

/-- L8, L9. -/
theorem test_tas : Runs 0x411B (.tasB 1) (start [(1, 0x2000)] []) (fun t => t.t && byteIn t 0x2000 == 0x80) ∧
    yields (stepOn 0x411B { start [(1, 0x2000)] [(0x2000, 1)] with sr := 0xF1 })
      (fun t => !t.t && byteIn t 0x2000 == 0x81) := by decide

/-- L10, L12, L13. -/
theorem test_tst : Runs 0x2128 (.tstR 2 1) (start [(1, 0xF0), (2, 0x0F)] []) (·.t) ∧
    Runs 0xC880 (.tstImm 0x80) { start [(0, 0x80)] [] with sr := 0xF1 } (!·.t) ∧
    Runs 0xCC01 (.tstB 1) { start [(0, 4)] [(0x2004, 0xFE)] with gbr := 0x2000 } (·.t) := by decide

/-! ### Shift -/

/-- S1, S2. -/
theorem test_rotates : Runs 0x4104 (.rotl 1) (start [(1, 0x80000001)] []) (fun t => t.reg 1 == 3 && t.t) ∧
    Runs 0x4105 (.rotr 1) (start [(1, 0x80000001)] []) (fun t => t.reg 1 == 0xC0000000 && t.t) := by decide

/-- S3, S4, S15, S16. -/
theorem test_rotates_through_t : Runs 0x4124 (.rotcl 1) (start [(1, 0x80000001)] []) (fun t => t.reg 1 == 2 && t.t) ∧
    Runs 0x4125 (.rotcr 1) (start [(1, 0x80000001)] []) (fun t => t.reg 1 == 0x40000000 && t.t) ∧
    yields (stepOn 0x4124 { start [(1, 1)] [] with sr := 0xF1 }) (fun t => t.reg 1 == 3 && !t.t) ∧
    yields (stepOn 0x4125 { start [(1, 2)] [] with sr := 0xF1 }) (fun t => t.reg 1 == 0x80000001 && !t.t) := by decide

/-- S5 to S8. -/
theorem test_one_bit_shifts : Runs 0x4120 (.shal 1) (start [(1, 0x80000001)] []) (fun t => t.reg 1 == 2 && t.t) ∧
    Runs 0x4121 (.shar 1) (start [(1, 0x80000001)] []) (fun t => t.reg 1 == 0xC0000000 && t.t) ∧
    Runs 0x4100 (.shll 1) (start [(1, 0x80000001)] []) (fun t => t.reg 1 == 2 && t.t) ∧
    Runs 0x4101 (.shlr 1) (start [(1, 0x80000001)] []) (fun t => t.reg 1 == 0x40000000 && t.t) := by decide

/-- S9, S11, S13: T stays. -/
theorem test_multi_bit_left_shifts :
    Runs 0x4108 (.shll2 1) { start [(1, 0x80000001)] [] with sr := 0xF1 } (fun t => t.reg 1 == 4 && t.t) ∧
    Runs 0x4118 (.shll8 1) { start [(1, 0x80000001)] [] with sr := 0xF1 } (fun t => t.reg 1 == 0x100 && t.t) ∧
    Runs 0x4128 (.shll16 1) { start [(1, 0x80000001)] [] with sr := 0xF1 } (fun t => t.reg 1 == 0x10000 && t.t) := by
  decide

/-- S10, S12, S14: T stays. -/
theorem test_multi_bit_right_shifts :
    Runs 0x4109 (.shlr2 1) { start [(1, 0x80000001)] [] with sr := 0xF1 } (fun t => t.reg 1 == 0x20000000 && t.t) ∧
    Runs 0x4119 (.shlr8 1) { start [(1, 0x80000001)] [] with sr := 0xF1 } (fun t => t.reg 1 == 0x800000 && t.t) ∧
    Runs 0x4129 (.shlr16 1) { start [(1, 0x80000001)] [] with sr := 0xF1 } (fun t => t.reg 1 == 0x8000 && t.t) := by
  decide

/-! ### Branch -/

/-- B1, B2. -/
theorem test_bf : Runs 0x8B02 (.bf 2) (start [] []) (·.pc == 0x1008) ∧
    yields (stepOn 0x8B02 { start [] [] with sr := 0xF1 }) (·.pc == 0x1002) := by decide

/-- B4: the most negative displacement. -/
theorem test_bt : Runs 0x8980 (.bt 0x80) { start [] [] with sr := 0xF1 }
    (fun t => t.pc == 0x0F04 && t.delay == none) := by decide

/-- B5; B7's first step. -/
theorem test_bf_s : Runs 0x8F02 (.bfS 2) (start [] []) (fun t => t.pc == 0x1002 && t.delay == some 0x1008) ∧
    yields (stepOn 0x8F02 { start [] [(0x1002, 0x71), (0x1003, 0x01)] with sr := 0xF1 })
      (fun t => t.pc == 0x1002 && t.delay == none) := by decide

/-- B8's first step. -/
theorem test_bt_s : Runs 0x8DFD (.btS 0xFD) { start [] [] with sr := 0xF1 }
    (fun t => t.pc == 0x1002 && t.delay == some 0x0FFE) := by decide

/-- R256, U5: not taken, a branch follows. -/
theorem test_untaken_before_branch_is_refused :
    refuses (stepOn 0x8F02 { start [] [(0x1002, 0xA0), (0x1003, 0x02)] with sr := 0xF1 })
      .branchAfterUntakenDelayedBranch = true := by decide

/-- B11: pc = H'2000, the most negative displacement. -/
theorem test_bra : Runs 0xA800 (.bra 0x800) { start [] [] with pc := 0x2000 } (·.delay == some 0x1004) := by decide

/-- The second step of B9: the slot executes, then control is at the target. -/
theorem test_slot : Runs 0x301C (.addR 1 0) { start [(0, 1), (1, 2)] [] with pc := 0x1002, delay := some 0x1008 }
    (fun t => t.reg 0 == 3 && t.pc == 0x1008 && t.delay == none) := by decide

/-- B12. -/
theorem test_braf : Runs 0x0123 (.braf 1) (start [(1, 0x100)] []) (·.delay == some 0x1104) := by decide

/-- B14, B15, B17. -/
theorem test_calls : Runs 0xB002 (.bsr 2) (start [] []) (fun t => t.pr == 0x1004 && t.delay == some 0x1008) ∧
    Runs 0x0103 (.bsrf 1) (start [(1, 0x200)] []) (fun t => t.pr == 0x1004 && t.delay == some 0x1204) ∧
    Runs 0x410B (.jsr 1) (start [(1, 0x3000)] []) (fun t => t.pr == 0x1004 && t.delay == some 0x3000) := by decide

/-- B16, B18. -/
theorem test_jmp_rts : Runs 0x412B (.jmp 1) (start [(1, 0x3000)] []) (·.delay == some 0x3000) ∧
    Runs 0x000B .rts { start [] [] with pr := 0x1234 } (fun t => t.delay == some 0x1234 && t.pc == 0x1002) := by decide

/-- B20: a branch in a slot is slot illegal, the pending target is saved. -/
theorem test_slot_illegal :
    yields (stepOn 0xA002 { start [(15, 0x3000)] (long 0x18 0x4000) with pc := 0x1002, delay := some 0x1008 })
      (fun t => t.pc == 0x4000 && longAt t 0x2FF8 == 0x1008 && longAt t 0x2FFC == 0xF0 && t.delay == none) := by decide

/-- B21's last step: the fetch from an odd address saves that address. -/
theorem test_odd_fetch : yields (step { start [(15, 0x3000)] (long 0x24 0x4000) with pc := 0x3001 })
    (fun t => t.pc == 0x4000 && longAt t 0x2FF8 == 0x3001) := by decide

/-- R254, U4. -/
theorem test_pc_operand_in_slot_is_refused :
    refuses (stepOn 0x9101 { start [] [] with delay := some 0x1008 }) .pcRelativeInDelaySlot = true := by decide

/-! ### System control -/

/-- Y1, Y2. -/
theorem test_clrt_sett : Runs 0x0008 .clrt { start [] [] with sr := 0xF1 } (·.sr == 0xF0) ∧
    Runs 0x0018 .sett (start [] []) (·.sr == 0xF1) := by decide

/-- Y3. -/
theorem test_clrmac : Runs 0x0028 .clrmac { start [] [] with mach := 1, macl := 2 }
    (fun t => t.mach == 0 && t.macl == 0) := by decide

/-- Y4: the reserved bits are dropped. -/
theorem test_ldc_sr : Runs 0x410E (.ldcSr 1) (start [(1, 0xFFFFFFFF)] []) (·.sr == 0x3F3) := by decide

/-- Y6, Y7. -/
theorem test_ldc : Runs 0x411E (.ldcGbr 1) (start [(1, 0x12345678)] []) (·.gbr == 0x12345678) ∧
    Runs 0x412E (.ldcVbr 1) (start [(1, 0x06000000)] []) (·.vbr == 0x06000000) := by decide

/-- Y8. -/
theorem test_ldc_l_sr : Runs 0x4F07 (.ldcLSr 15) (start [(15, 0x2000)] (long 0x2000 0xFFFFFC0D))
    (fun t => t.sr == 1 && t.reg 15 == 0x2004) := by decide

/-- Y9, Y10. -/
theorem test_ldc_l : Runs 0x4117 (.ldcLGbr 1) (start [(1, 0x2000)] (long 0x2000 0xAABBCCDD))
      (fun t => t.gbr == 0xAABBCCDD && t.reg 1 == 0x2004) ∧
    Runs 0x4127 (.ldcLVbr 1) (start [(1, 0x2000)] (long 0x2000 0xAABBCC00))
      (fun t => t.vbr == 0xAABBCC00 && t.reg 1 == 0x2004) := by decide

/-- Y11 to Y13. -/
theorem test_lds : Runs 0x410A (.ldsMach 1) (start [(1, 0xFFFFFFFF)] []) (·.mach == 0xFFFFFFFF) ∧
    Runs 0x411A (.ldsMacl 1) (start [(1, 0x12345678)] []) (·.macl == 0x12345678) ∧
    Runs 0x412A (.ldsPr 1) (start [(1, 0x12345678)] []) (·.pr == 0x12345678) := by decide

/-- Y14 to Y16. -/
theorem test_lds_l : Runs 0x4106 (.ldsLMach 1) (start [(1, 0x2000)] (long 0x2000 0x11111111)) (·.mach == 0x11111111) ∧
    Runs 0x4116 (.ldsLMacl 1) (start [(1, 0x2000)] (long 0x2000 0x22222222)) (·.macl == 0x22222222) ∧
    Runs 0x4F26 (.ldsLPr 15) (start [(15, 0x2000)] (long 0x2000 0x1238))
      (fun t => t.pr == 0x1238 && t.reg 15 == 0x2004) := by decide

/-- Y17. -/
theorem test_nop : Runs 0x0009 .nop (start [] []) (·.pc == 0x1002) := by decide

/-- Y18 to Y20. -/
theorem test_stc : Runs 0x0102 (.stcSr 1) { start [] [] with sr := 0x1F1 } (·.reg 1 == 0x1F1) ∧
    Runs 0x0112 (.stcGbr 1) { start [] [] with gbr := 0xCAFE0000 } (·.reg 1 == 0xCAFE0000) ∧
    Runs 0x0122 (.stcVbr 1) { start [] [] with vbr := 0x06000000 } (·.reg 1 == 0x06000000) := by decide

/-- Y21 to Y23. -/
theorem test_stc_l : Runs 0x4F03 (.stcLSr 15) { start [(15, 0x2004)] [] with sr := 0xF1 } (longAt · 0x2000 == 0xF1) ∧
    Runs 0x4F13 (.stcLGbr 15) { start [(15, 0x2004)] [] with gbr := 0xCAFE0000 } (longAt · 0x2000 == 0xCAFE0000) ∧
    Runs 0x4F23 (.stcLVbr 15) { start [(15, 0x2004)] [] with vbr := 0x06000000 }
      (fun t => longAt t 0x2000 == 0x06000000 && t.reg 15 == 0x2000) := by decide

/-- Y24 to Y26. -/
theorem test_sts : Runs 0x010A (.stsMach 1) { start [] [] with mach := 0xFFFF8000 } (·.reg 1 == 0xFFFF8000) ∧
    Runs 0x011A (.stsMacl 1) { start [] [] with macl := 0x12345678 } (·.reg 1 == 0x12345678) ∧
    Runs 0x012A (.stsPr 1) { start [] [] with pr := 0x1004 } (·.reg 1 == 0x1004) := by decide

/-- Y27 to Y29. -/
theorem test_sts_l : Runs 0x4F02 (.stsLMach 15) { start [(15, 0x2004)] [] with mach := 0x11111111 }
      (longAt · 0x2000 == 0x11111111) ∧
    Runs 0x4F12 (.stsLMacl 15) { start [(15, 0x2004)] [] with macl := 0x22222222 } (longAt · 0x2000 == 0x22222222) ∧
    Runs 0x4F22 (.stsLPr 15) { start [(15, 0x2004)] [] with pr := 0x1004 }
      (fun t => longAt t 0x2000 == 0x1004 && t.reg 15 == 0x2000) := by decide

/-- Y30: pc = H'1234. -/
theorem test_trapa : Runs 0xC320 (.trapa 0x20)
    { start [(15, 0x06001000)] (long 0x80 0x2000) with pc := 0x1234, sr := 0xF1 }
    (fun t => t.pc == 0x2000 && t.reg 15 == 0x06000FF8 && longAt t 0x06000FF8 == 0x1236 &&
      longAt t 0x06000FFC == 0xF1) := by decide

/-- Y31's first step. -/
theorem test_rte : Runs 0x002B .rte { start [(15, 0x2000)] (long 0x2000 0x1236 ++ long 0x2004 0xF1) with sr := 0 }
    (fun t => t.reg 15 == 0x2008 && t.sr == 0xF1 && t.pc == 0x1002 && t.delay == some 0x1236) := by decide

/-- Y32. -/
theorem test_sleep : Runs 0x001B .sleep (start [] []) (fun t => t.mode == .sleep && t.pc == 0x1002) := by decide

/-- R356: SBY = 1. -/
theorem test_standby : yields (stepOn 0x001B { start [] [] with platform := { Platform.initial with sby := true } })
    (fun t => t.mode == .standby && t.pc == 0x1002) := by decide

/-- R384, U8. -/
theorem test_multiplier_in_standby :
    refuses (stepOn 0x0127 { start [] [] with platform := { Platform.initial with stopMult := true } })
      .multiplierInModuleStandby = true := by decide

/-! ### Exceptions, interrupts, reset, memory -/

/-- X1. -/
theorem test_general_illegal : yields (stepOn 0xFFFF { start [(15, 0x3000)] (long 0x10 0x4000) with sr := 0xF1 })
    (fun t => t.pc == 0x4000 && longAt t 0x2FF8 == 0x1000 && longAt t 0x2FFC == 0xF1 && t.reg 15 == 0x2FF8) := by decide

/-- X2. -/
theorem test_misaligned_read :
    yields (stepOn 0x6122 (start [(15, 0x3000), (2, 0x2002), (1, 0x55)] (long 0x24 0x4000)))
      (fun t => t.pc == 0x4000 && longAt t 0x2FF8 == 0x1002 && t.reg 1 == 0x55) := by decide

/-- X3: VBR = H'100. -/
theorem test_misaligned_write :
    yields (stepOn 0x2121 { start [(15, 0x3000), (1, 0x2001), (2, 0x1234)] (long 0x124 0x4000) with vbr := 0x100 })
      (fun t => t.pc == 0x4000 && longAt t 0x2000 == 0 && longAt t 0x2FF8 == 0x1002) := by decide

/-- An interrupt request at a level, with a vector. -/
def request (level : BitVec 4) (vector : BitVec 8) : Input := { Input.idle with requests := [.irq level vector] }

/-- X4. -/
theorem test_interrupt : yields (step { start [(15, 0x3000)] (long 0x10C 0x4000) with sr := 0x30, inputs := [request 5 67] })
    (fun t => t.pc == 0x4000 && t.imask == 5 && longAt t 0x2FF8 == 0x1000 && longAt t 0x2FFC == 0x30) := by decide

/-- X5: the level is not above the mask, so the NOP runs. -/
theorem test_masked_interrupt :
    yields (step { start [] [(0x1001, 0x09)] with sr := 0x50, inputs := [request 5 67] }) (·.pc == 0x1002) := by decide

/-- X6. -/
theorem test_nmi :
    yields (step { start [(15, 0x3000)] (long 0x2C 0x4000) with inputs := [{ Input.idle with requests := [.nmi] }] })
      (fun t => t.pc == 0x4000 && t.imask == 15) := by decide

/-- X7's second step: no acceptance before a slot. -/
theorem test_no_interrupt_before_a_slot :
    yields (step { start [] [(0x1001, 0x09)] with sr := 0, delay := some 0x1008, inputs := [request 5 67] })
      (·.pc == 0x1008) := by decide

/-- X8's last step: the interrupt wakes the sleeping CPU. -/
theorem test_wake_up :
    yields (step { start [(15, 0x3000)] (long 0x10C 0x4000) with
      pc := 0x1002, sr := 0, mode := .sleep, inputs := [request 5 67] })
      (fun t => t.mode == .run && t.pc == 0x4000 && longAt t 0x2FF8 == 0x1002) := by decide

/-- R324: vector 10. -/
theorem test_dma_address_error :
    yields (step { start [(15, 0x3000)] (long 0x28 0x4000) with inputs := [{ Input.idle with dmaError := true }] })
      (fun t => t.pc == 0x4000 && t.imask == 15) := by decide

/-- R371: manual reset takes PC from H'8 and R15 from H'C. -/
theorem test_manual_reset :
    yields (step { start [] (long 8 0x4000 ++ long 12 0x5000) with
      vbr := 0x100, inputs := [{ Input.idle with reset := some .manual }] })
      (fun t => t.pc == 0x4000 && t.reg 15 == 0x5000 && t.vbr == 0) := by decide

/-- R77, R353: another master's write. -/
theorem test_bus_release :
    yields (step { start [] [] with inputs := [{ Input.idle with bus := some [(0x2000, 0x77)] }] })
      (fun t => t.pc == 0x1000 && byteIn t 0x2000 == 0x77 && t.mode == .busReleased) := by decide

/-- R75, R353, D14: MAC.W reads H'2000 through R1 and R2, and another master writes between the two reads: 2 times 3. -/
theorem test_write_between_the_reads_of_mac :
    yields (stepAmong [[], [(0x2001, 3)]] 0x412F (start [(1, 0x2000), (2, 0x2000)] [(0x2001, 2)])) (·.macl == 6) := by
  decide

/-- R73: another master's write between the read and the write of AND.B is lost under the byte and kept beside it; D15:
TAS.B holds the bus. -/
theorem test_write_between_read_and_write :
    yields (stepAmong [[], [(0x2004, 0xFF), (0x2005, 0x77)]] 0xCD0F { start [(0, 4)] [(0x2004, 0xA5)] with gbr := 0x2000 })
      (fun t => byteIn t 0x2004 == 0x05 && byteIn t 0x2005 == 0x77) = true ∧
    yields (stepAmong [[], [(0x2000, 0), (0x2001, 0x77)]] 0x411B (start [(1, 0x2000)] [(0x2000, 1)]))
      (fun t => byteIn t 0x2000 == 0x81 && byteIn t 0x2001 == 0) = true := by decide

/-- R353: another master changes the vector before entry's third access. -/
theorem test_write_before_the_vector_fetch :
    yields (stepAmong [[], [], long 0x80 0x2000] 0xC320 (start [(15, 0x3000)] [])) (·.pc == 0x2000) := by decide

/-- R78, D16: code that this run stored is refused; after a reset it is not (R78: the run begins there). -/
theorem test_self_modified_code : refuses (step { start [] [] with storedAt := [0x1001] }) .selfModifiedCode = true ∧
    yields (step { start [] [] with storedAt := [0x1001], inputs := [{ Input.idle with reset := some .powerOn }] })
      (·.storedAt == []) = true := by decide

/-- R78, D16: a byte stored to a device may not be fetched either. -/
theorem test_device_store_bars_fetch :
    yields (stepOn 0x2120 { start [(1, 0x2000)] [] with map := [⟨0x2000, 1, .device⟩] }) (·.storedAt == [0x2000]) = true ∧
    refuses (step { start [] [] with map := [⟨0x1000, 2, .device⟩], storedAt := [0x1000] }) .selfModifiedCode = true := by
  decide

/-- R78: text is immutable while it runs: a NOP's two bytes become text, another master's write over text bars it from fetch,
between instructions and within one; loading code that has not been fetched does not. -/
theorem test_other_masters_write_over_text :
    yields (step (start [] [(0x1001, 0x09)])) (·.fetchedAt == [0x1000, 0x1001]) = true ∧
    yields (step { start [] [] with
      fetchedAt := [0x1001], inputs := [{ Input.idle with bus := some [(0x1001, 9), (0x2000, 9)] }] })
      (·.storedAt == [0x1001]) = true ∧
    yields (stepAmong [[(0x1000, 0), (0x1002, 0)]] 0x6120 (start [(2, 0x2000)] [])) (·.storedAt == [0x1000]) = true := by
  decide

/-- R68, R66: a fetch from a device window takes what the peripheral returns. -/
theorem test_device_fetch : ∃ w, fetch { start [] [] with map := [⟨0x1000, 2, .device⟩] } = .word w := ⟨_, rfl⟩

/-- R338: with an odd pc the CPU's own address error comes before the DMA controller's. -/
theorem test_odd_pc_before_dma_error :
    yields (step { start [(15, 0x3000)] (long 0x24 0x4000 ++ long 0x28 0x5000) with
      pc := 0x3001, inputs := [{ Input.idle with dmaError := true }] })
      (fun t => t.pc == 0x4000 && longAt t 0x2FF8 == 0x3001) := by decide

/-- R82, U3. -/
theorem test_absent_and_rom :
    faults (stepOn 0x6120 { start [(2, 0x2000)] [] with map := [⟨0x2000, 4, .absent⟩] }) .absentAddress = true ∧
    faults (stepOn 0x2120 { start [(1, 0x2003)] [] with map := [⟨0x2000, 4, .rom⟩] }) .romStore = true := by decide

/-- R339, U7: the stack pointer is odd at an entry. -/
theorem test_fault_in_entry : faults (stepOn 0xC320 (start [(15, 0x3001)] [])) .exceptionEntry = true := by decide

theorem test_memory_is_canonical : Memory.wf State.reset.mem ∧ Memory.put [(1, 5), (3, 7)] 3 0 = [(1, 5)] ∧
    Memory.put [(1, 5), (3, 7)] 2 9 = [(1, 5), (2, 9), (3, 7)] := by decide

/-- R40, with the reset vectors read from the empty memory. -/
theorem test_reset : State.reset.imask = 15 ∧ State.reset.vbr = 0 ∧ State.reset.pc = longAt State.reset 0 ∧
    State.reset.reg 15 = longAt State.reset 4 := by decide

/-! ### Witnesses: the hypotheses of each statement are met, clause by clause. A statement with no hypothesis has none. -/

/-- A state with a longword boundary, the top of memory, an odd address and a 4n + 2 address in R1 to R4, R15 aligned. -/
def edges : State := start [(1, 0x2000), (2, 0xFFFFFFFC), (3, 0x2001), (4, 0x2002), (15, 0x3000)] []

theorem witness_DecodedWordIsTheCodeOfItsInstruction :
    decode 0x0002 = .ok (.stcSr 0) ∧ decode 0xEFFF = .ok (.movImm 0xFF 15) := by decide

theorem witness_UndefinedWordsAreExactlyThoseOfTheTable :
    UndefinedWord 0x0032 ∧ ¬UndefinedWord 0x0022 ∧ UndefinedWord 0xF000 ∧ ¬UndefinedWord 0xEFFF ∧
    UndefinedWord 0x4F1C ∧ ¬UndefinedWord 0x4F1B := by simp [UndefinedWord]

theorem witness_StepRunsTheDecodedInstruction :
    let s := start [] [(0x1000, 0xE1), (0x1001, 0x80)]
    ReadyToExecute s ∧ FetchesWord s 0xE180 ∧ decode 0xE180 = .ok (.movImm 0x80 1) ∧
    ReadyToExecute { s with delay := some 0x2000, mode := .busReleased, inputs := [request 5 67] } := by
  unfold ReadyToExecute FetchesWord; decide

theorem witness_FetchesThatRunNoInstruction :
    let s := edges
    ReadyToExecute s ∧ { s with pc := 0x1001 }.pc.getLsbD 0 = true ∧
    (s.pc.getLsbD 0 = false ∧ { s with map := [⟨0x1001, 1, .absent⟩] }.kindAt (s.pc + 1) = .absent) ∧
    s.kindAt s.pc ≠ .absent ∧ s.kindAt (s.pc + 1) ≠ .absent ∧ (s.pc + 1).toNat ∈ { s with storedAt := [0x1001] }.storedAt ∧
    FetchesWord s 0 ∧ s.delay = none ∧ { s with delay := some 0x1008 }.delay = some 0x1008 ∧
    ReadyToExecute { s with delay := some 0x1008 } := by
  unfold ReadyToExecute FetchesWord; decide

theorem witness_FetchesThatRunNoInstruction_undefined : UndefinedWord 0 := by simp [UndefinedWord]

theorem witness_ExceptionEntryPushesSrAndPcAndJumps :
    CanEnter edges 4 ∧ CanEnter (start [] []) 255 ∧ ¬CanEnter (start [(15, 0x3001)] []) 4 ∧
    CanEnter { edges with between := [[(0x2FFC, 1)]] } 4 ∧ edges.between = [] ∧
    ¬CanEnter { edges with map := [⟨0x2FFC, 4, .rom⟩] } 4 := by unfold CanEnter; decide

theorem witness_BranchClassInDelaySlotIsSlotIllegal :
    (Instr.trapa 0).isBranchClass = true ∧ { edges with delay := some 0x1008 }.delay = some 0x1008 := by decide

theorem witness_InterruptsAndDmaErrorsEnterBetweenInstructions :
    let s := { edges with inputs := [{ Input.idle with requests := [.irq 14 67, .irq 15 64] }] }
    let n := { edges with inputs := [{ Input.idle with requests := [.irq 15 64, .nmi] }] }
    let d := { edges with inputs := [{ Input.idle with dmaError := true }] }
    s.mode = .run ∧ { s with mode := .busReleased }.mode = .busReleased ∧ d.pc.getLsbD 0 = false ∧
    { d with pc := 0x1001 }.pc.getLsbD 0 = true ∧
    s.boundary.reset = none ∧ s.boundary.bus = none ∧ s.delay = none ∧ s.boundary.dmaError = false ∧
    acceptedRequest { s with sr := 0xE0 }.imask s.boundary.requests = some (.irq 15 64) ∧
    acceptedRequest n.imask n.boundary.requests = some .nmi ∧ n.boundary.dmaError = false ∧
    d.boundary.dmaError = true ∧ d.boundary.bus = none ∧ { d with delay := some 0x1008 }.delay = some 0x1008 := by decide

theorem witness_AcceptedRequestIsTheHighestUnmasked :
    acceptedRequest 14 [.irq 14 64, .irq 15 65] = some (.irq 15 65) ∧ acceptedRequest 15 [.irq 15 65] = none ∧
    (∃ q ∈ [Request.irq 1 64], (0 : BitVec 4).toNat < q.level) ∧ Request.nmi ∈ [Request.irq 15 64, .nmi] := by decide

theorem witness_PowerDownEndsOnlyOnItsWakeUpEvents :
    let s := { edges with mode := .sleep, sr := 0x40, inputs := [request 5 67] }
    let d := { s with inputs := [{ Input.idle with dmaError := true }] }
    let n := { edges with mode := .standby, inputs := [{ Input.idle with requests := [.nmi] }] }
    s.boundary.reset = none ∧ s.boundary.bus = none ∧ s.boundary.dmaError = false ∧
    acceptedRequest s.imask s.boundary.requests = some (.irq 5 67) ∧
    acceptedRequest { s with sr := 0x50 }.imask s.boundary.requests = none ∧ d.boundary.dmaError = true ∧
    acceptedRequest n.imask n.boundary.requests = some .nmi ∧ .nmi ∈ n.boundary.requests ∧
    .nmi ∉ { n with inputs := [request 15 67] }.boundary.requests := by decide

theorem witness_BusReleaseChangesMemoryOnly :
    let ws : List (Word × Byte) := [(0x2000, 1), (0xFFFFFFFF, 2), (0x2000, 3)]
    let s := { edges with inputs := [{ Input.idle with bus := some ws }] }
    s.boundary.reset = none ∧ s.boundary.bus = some ws ∧ ws = [(0x2000, 1), (0xFFFFFFFF, 2)] ++ (0x2000, 3) :: [] ∧
    s.kindAt 0x2000 ≠ .device ∧ { s with fetchedAt := [0xFFFFFFFF] }.boundary.bus = some ws := by decide

theorem witness_ResetFetchesPcAndSpFromTheVectorTable :
    let s := { edges with inputs := [{ Input.idle with reset := some .manual }] }
    s.boundary.reset = some .manual ∧ s.mapped .long 8 = true ∧ s.mapped .long 12 = true ∧ s.mapped .long 0 = true ∧
    ¬({ s with map := [⟨15, 1, .absent⟩] }.mapped .long 8 = true ∧
      { s with map := [⟨15, 1, .absent⟩] }.mapped .long 12 = true) := by decide

theorem witness_EveryStepKeepsTheInvariant :
    edges.Inv ∧ yields (step edges) (fun _ => true) ∧ yields (stepOn 0x001B edges) (·.mode == .sleep) := by
  exact ⟨⟨by decide, by decide, by decide, by decide, by decide, by decide⟩, by decide, by decide⟩

/-- For MemReadGivesTheBigEndianValue and MemWriteStoresTheBytesAndNoOther. -/
theorem witness_MemRead_and_MemWrite :
    (0x2001 : Word).getLsbD 0 = true ∧ (0x2002 : Word).getLsbD 1 = true ∧ (0xFFFFFFFE : Word).getLsbD 0 = false ∧
    edges.mapped .long 0xFFFFFFFC = true ∧ edges.writable .long 0xFFFFFFFC = true ∧
    edges.mapped .word 0xFFFFFFFE = true ∧ edges.writable .byte 0xFFFFFFFF = true ∧
    { edges with map := [⟨0x2000, 4, .device⟩] }.kindAt 0x2003 = .device ∧ edges.kindAt 0x2003 ≠ .device := by decide

theorem witness_AbsentAndRomAccessesFault :
    aligned .long 0x2000 = true ∧
    (∃ b ∈ span .long 0x2000, { edges with map := [⟨0x2003, 1, .absent⟩] }.kindAt b = .absent) ∧
    (∀ b ∈ span .long 0x2000, { edges with map := [⟨0x2003, 1, .rom⟩] }.kindAt b ≠ .absent) ∧
    (∃ b ∈ span .long 0x2000, { edges with map := [⟨0x2003, 1, .rom⟩] }.kindAt b = .rom) := by
  refine ⟨by decide, ⟨0x2003, by decide, by decide⟩, fun b hb => ?_, ⟨0x2003, by decide, by decide⟩⟩
  simp only [span, List.mem_cons, List.not_mem_nil, or_false] at hb
  rcases hb with rfl | rfl | rfl | rfl <;> decide

theorem witness_StoredLongwordReadsBackInEveryWidth :
    (memWrite edges .long 0xFFFFFFFC 0x12345678 matches .ok _) = true ∧
    ∀ b ∈ span .long 0xFFFFFFFC, edges.kindAt b ≠ .device := by
  refine ⟨by decide, fun b hb => ?_⟩
  simp only [span, List.mem_cons, List.not_mem_nil, or_false] at hb
  rcases hb with rfl | rfl | rfl | rfl <;> decide

theorem witness_PcRelativeOperandsUsePcPlusFour :
    edges.delay = none ∧ aligned .word (edges.pc + 4 + (0xFF : BitVec 8).setWidth 32 * 2) = true ∧
    edges.mapped .word (edges.pc + 4 + (0xFF : BitVec 8).setWidth 32 * 2) = true ∧
    edges.mapped .long (((edges.pc + 4) &&& 0xFFFFFFFC) + (0xFF : BitVec 8).setWidth 32 * 4) = true ∧
    aligned .word ({ edges with pc := 0x1001 }.pc + 4 + (0 : BitVec 8).setWidth 32 * 2) = false ∧
    { edges with delay := some 0x1008 }.delay = some 0x1008 := by decide

/-- For LoadsExtendTheDatumIntoTheirRegister, PostIncrementLoadsKeepTheDatum, StoresWriteTheirBytesAndNoOther and
PostIncrementLoadsOfSystemRegisters: @R2 and @(0,GBR) with GBR = H'2000 for the first clause, @R3 and @R4 for the
misaligned one; for each size. -/
theorem witness_loads_and_stores :
    (aligned .byte (edges.reg 2) = true ∧ edges.mapped .byte (edges.reg 2) = true ∧ edges.writable .byte (edges.reg 2)) ∧
    (aligned .word (edges.reg 2) = true ∧ edges.mapped .word (edges.reg 2) = true ∧ edges.writable .word (edges.reg 2)) ∧
    (aligned .long (edges.reg 2) = true ∧ edges.mapped .long (edges.reg 2) = true ∧ edges.writable .long (edges.reg 2)) ∧
    aligned .word (edges.reg 3) = false ∧ aligned .long (edges.reg 3) = false ∧ aligned .long (edges.reg 4) = false ∧
    edges.platform.stopMult = false := by decide

/-- For the clauses of the loads, stores, MAC, RTE and the byte forms on accesses to nothing and to ROM: H'2000 to
H'2003 absent, H'2004 to H'2007 absent behind a first operand, H'2000 to H'2003 ROM. -/
theorem witness_absent_and_rom :
    let absent := { edges with map := [⟨0x2000, 4, .absent⟩] }
    let second := { edges with map := [⟨0x2004, 4, .absent⟩] }
    let rom := { edges with map := [⟨0x2000, 4, .rom⟩] }
    (aligned .long (absent.reg 1) = true ∧ absent.mapped .long (absent.reg 1) = false ∧
      absent.mapped .byte (absent.reg 3) = false ∧ absent.mapped .word (absent.reg 4) = false ∧
      aligned .word (absent.reg 4) = true) ∧
    (aligned .long (rom.reg 1) = true ∧ rom.mapped .long (rom.reg 1) = true ∧ rom.writable .long (rom.reg 1) = false ∧
      rom.writable .byte (rom.reg 3) = false ∧ rom.mapped .byte (rom.reg 3) = true) ∧
    (aligned .long ((absent.setReg 4 0x2004).reg 4 - 4) = true ∧
      absent.mapped .long ((absent.setReg 4 0x2004).reg 4 - 4) = false ∧
      rom.mapped .long ((rom.setReg 4 0x2004).reg 4 - 4) = true ∧
      rom.writable .long ((rom.setReg 4 0x2004).reg 4 - 4) = false) ∧
    (second.mapped .long (second.reg 1) = true ∧ aligned .long (second.reg 1 + Size.long.bytes) = true ∧
      second.mapped .long (second.reg 1 + Size.long.bytes) = false) ∧
    (second.delay = none ∧ aligned .long ((second.setReg 15 0x2000).reg 15) = true ∧
      second.mapped .long ((second.setReg 15 0x2000).reg 15) = true ∧
      second.mapped .long ((second.setReg 15 0x2000).reg 15 + 4) = false) ∧
    second.platform.stopMult = false := by decide

/-- The same for the displaced, indexed and GBR forms at the ends of their displacements. -/
theorem witness_displaced_accesses :
    let s := { edges with gbr := 0x2000 }
    (aligned .long (s.reg 1 + (15 : BitVec 4).setWidth 32 * 4) = true ∧
      s.mapped .long (s.reg 1 + (15 : BitVec 4).setWidth 32 * 4) = true ∧
      s.writable .long (s.reg 1 + (15 : BitVec 4).setWidth 32 * 4) = true) ∧
    (aligned .word (s.gbr + (255 : BitVec 8).setWidth 32 * 2) = true ∧
      s.mapped .word (s.gbr + (255 : BitVec 8).setWidth 32 * 2) = true) ∧
    (aligned .long (s.reg 0 + s.reg 2) = true ∧ s.mapped .long (s.reg 0 + s.reg 2) = true) ∧
    aligned .long (s.reg 4 + (0 : BitVec 4).setWidth 32 * 4) = false ∧
    aligned .word ({ s with gbr := 0x2001 }.gbr + (0 : BitVec 8).setWidth 32 * 2) = false ∧
    aligned .word (s.reg 0 + s.reg 3) = false := by decide

/-- For PreDecrementStoresKeepTheDecrementedAddress and PreDecrementStoresOfSystemRegisters: R0 = 0 wraps to the top. -/
theorem witness_pre_decrement_stores :
    (aligned .long (edges.reg 0 - 4) = true ∧ edges.mapped .long (edges.reg 0 - 4) = true ∧
      edges.writable .long (edges.reg 0 - 4) = true) ∧
    (aligned .word (edges.reg 0 - 2) = true ∧ edges.mapped .word (edges.reg 0 - 2) = true ∧
      edges.writable .word (edges.reg 0 - 2) = true) ∧
    (edges.mapped .byte (edges.reg 0 - 1) = true ∧ edges.writable .byte (edges.reg 0 - 1) = true) ∧
    aligned .word (edges.reg 3 - 2) = false ∧ aligned .long (edges.reg 4 - 4) = false ∧
    edges.platform.stopMult = false := by decide

/-- V = -y with Q = 1 and V = y - 1 with Q = 0, for y = R2 = 5. -/
theorem witness_Div1KeepsThePartialRemainderInRange :
    let a := { start [(1, 0xFFFFFFFB), (2, 5)] [] with sr := 0x1F0 }
    let b := start [(1, 4), (2, 5)] []
    a.m = false ∧ ((a.reg 1).toNat : Int) - 2 ^ 32 * a.q.toNat = -(a.reg 2).toNat ∧
    b.m = false ∧ ((b.reg 1).toNat : Int) - 2 ^ 32 * b.q.toNat = (b.reg 2).toNat - 1 ∧
    (((a.reg 1).toNat : Int) - 2 ^ 32 * a.q.toNat < (a.reg 2).toNat) := by decide

/-- For DoubleLengthProductsAreExact, SingleLengthProductsWriteMaclOnly and the clauses on the multiplier of
ClearsSetsAndRegisterLoads and RegisterStoresOfSystemRegisters. -/
theorem witness_multiplier_runs : edges.platform.stopMult = false := by decide

/-- For MacAccumulatesExactlyWithoutSaturation and MacSaturatesWithTheSBit: m = n (R1 twice) and m ≠ n (R1, R2), S = 0 and
S = 1, both sizes. -/
theorem witness_mac_operands :
    (edges.platform.stopMult = false ∧ edges.sBit = false ∧ { edges with sr := 0xF2 }.sBit = true) ∧
    (aligned .long (edges.reg 1) = true ∧ edges.mapped .long (edges.reg 1) = true ∧
      aligned .long (edges.reg 2) = true ∧ edges.mapped .long (edges.reg 2) = true) ∧
    (aligned .long (edges.reg 1 + Size.long.bytes) = true ∧ edges.mapped .long (edges.reg 1 + Size.long.bytes) = true) ∧
    (aligned .word (edges.reg 1) = true ∧ edges.mapped .word (edges.reg 1) = true ∧
      aligned .word (edges.reg 2) = true ∧ edges.mapped .word (edges.reg 2) = true) ∧
    (aligned .word (edges.reg 1 + Size.word.bytes) = true ∧
      edges.mapped .word (edges.reg 1 + Size.word.bytes) = true) := by decide

/-- For MacSaturatesWithTheSBit: MAC.W with S = 1 at the ends of its range: below it, above it, and at its upper end. -/
theorem witness_mac_w_ranges :
    let s (acc : Word) (a b : Byte) :=
      { start [(1, 0x2000), (2, 0x2008)] [(0x2000, a), (0x2001, a), (0x2008, 0), (0x2009, b)] with sr := 0xF2, macl := acc }
    let sum (u : State) : Int :=
      u.macl.toInt + (loadedValue u 0 .word (u.reg 1)).toInt * (loadedValue u 1 .word (u.reg 2)).toInt
    sum (s 0x80000000 0xFF 1) = -2 ^ 31 - 1 ∧ sum (s 0x7FFFFFFF 0 1) = 2 ^ 31 - 1 ∧ 2 ^ 31 - 1 < sum (s 0x7FFFFFFF 1 1) ∧
    sum (s 0x80000000 0 1) = -2 ^ 31 := by decide

/-- First operand misaligned; second operand misaligned with the first readable; RTE's stack pointer misaligned. The
operands where nothing lies are those of witness_absent_and_rom. -/
theorem witness_MisalignedMacAndRteTakeTheAddressError :
    edges.platform.stopMult = false ∧ aligned .long (edges.reg 4) = false ∧ aligned .word (edges.reg 3) = false ∧
    (aligned .long (edges.reg 1) = true ∧ edges.mapped .long (edges.reg 1) = true) ∧
    (aligned .word (edges.reg 4) = true ∧ edges.mapped .word (edges.reg 4) = true) ∧
    edges.delay = none ∧ aligned .long ((edges.setReg 15 0x3002).reg 15) = false := by decide

/-- For MemoryLogicModifiesOneByte, TestsWriteOnlyTheTBit and TasSetsBitSevenAndTestsForZero. -/
theorem witness_byte_operands :
    let s := { edges with gbr := 0x2000 }
    s.mapped .byte (s.gbr + s.reg 2) = true ∧ s.writable .byte (s.gbr + s.reg 2) = true ∧
    s.mapped .byte (s.reg 3) = true ∧ s.writable .byte (s.reg 3) = true ∧ s.kindAt (s.reg 3) ≠ .device := by decide

/-- For PlainConditionalBranchesGoAtOnce, UnconditionalDelayedBranches and DelayedConditionalBranches, whose clauses are
met with T = 0 and T = 1; then a word of R253's list follows, or ADD #1,R1 does. -/
theorem witness_branches :
    let a := start [] [(0x1002, 0x71), (0x1003, 0x01)]
    let b := start [] [(0x1002, 0xA0), (0x1003, 0x02)]
    a.delay = none ∧ (!a.t) = true ∧ { a with sr := 0xF1 }.t = true ∧ a.t = false ∧
    (∀ j, FollowedBy a j → j.isBranchClass = false) ∧ b.t = false ∧ FollowedBy b (.bra 2) ∧
    (Instr.bra 2).isBranchClass = true := by
  have h : FollowedBy (start [] [(0x1002, 0x71), (0x1003, 0x01)]) (.addImm 1 1) := by unfold FollowedBy; decide
  refine ⟨by decide, by decide, by decide, by decide, fun j hj => ?_, by decide, by unfold FollowedBy; decide, by decide⟩
  obtain rfl : Instr.addImm 1 1 = j := Except.ok.inj (h.2.symm.trans hj.2)
  rfl

theorem witness_MovesOfTheStatusRegister :
    aligned .long (edges.reg 2) = true ∧ edges.mapped .long (edges.reg 2) = true ∧ aligned .long (edges.reg 4) = false ∧
    (aligned .long (edges.reg 0 - Size.long.bytes) = true ∧ edges.mapped .long (edges.reg 0 - Size.long.bytes) = true ∧
      edges.writable .long (edges.reg 0 - Size.long.bytes) = true) := by decide

theorem witness_RteRestoresPcAndSrFromTheStack :
    let s := edges.setReg 15 0xFFFFFFFC
    s.delay = none ∧ aligned .long (s.reg 15) = true ∧ s.mapped .long (s.reg 15) = true ∧
    s.mapped .long (s.reg 15 + 4) = true := by decide

theorem witness_SleepEntersTheModeSbySelects :
    edges.platform.sby = false ∧ { edges with platform := { Platform.initial with sby := true } }.platform.sby = true ∧
    edges.multSinceMach = false ∧ edges.multSinceMacl = false ∧ edges.kindAt 0x2000 ≠ .onChipRam := by decide

theorem witness_TrapaEntersItsVector :
    edges.delay = none ∧ CanEnter edges 0xFF ∧ (edges.setReg 15 0x3002).delay = none ∧ ¬CanEnter (edges.setReg 15 0x3002) 0 := by
  unfold CanEnter; decide

/-- For StatusBitsChangeOnlyByTheirWriters, SpecialRegistersChangeOnlyByTheirWriters and
DelaySlotsAndModesArePairedWithTheirInstructions: ADD #1,R1, SLEEP with SBY = 1 after no multiplication, and BRA, each
answers a next state. -/
theorem witness_writers_and_modes :
    yields (exec (.addImm 1 1) edges) (fun t => t.mode == .run) ∧ (Instr.addImm 1 1).writesT = false ∧
    (Instr.addImm 1 1).writesSr = false ∧ (Instr.addImm 1 1).writesM = false ∧ (Instr.addImm 1 1).writesQ = false ∧
    (Instr.addImm 1 1).writesGbr = false ∧ (Instr.addImm 1 1).writesVbr = false ∧ (Instr.addImm 1 1).writesPr = false ∧
    (Instr.mulL 1 2).writesMach = false ∧ yields (exec (.mulL 1 2) edges) (fun _ => true) ∧
    (Instr.addImm 1 1).writesMacl = false ∧ yields (exec (.bra 2) edges) (fun t => t.delay != none) ∧
    yields (exec .sleep { edges with platform := { Platform.initial with sby := true } })
      (fun t => t.mach == 0 && t.macl == 0) ∧ edges.mode = .run := by decide

theorem witness_RefusalsOfExecAreTheSpecsThree :
    let s := { edges with platform := { Platform.initial with stopMult := true } }
    Instr.clrmac.usesMultiplier = true ∧ s.platform.stopMult = true ∧
    refuses (exec .clrmac s) .multiplierInModuleStandby ∧
    refuses (exec (.mova 0) { edges with delay := some 0x1008 }) .pcRelativeInDelaySlot := by decide

/-- The third case of that statement: BF/S with T = 1 and BT/S with T = 0, not taken, before BRA. -/
theorem witness_RefusalsOfExecAreTheSpecsThree_untaken :
    let b := start [] [(0x1002, 0xA0), (0x1003, 0x02)]
    refuses (exec (.bfS 2) { b with sr := 0xF1 }) .branchAfterUntakenDelayedBranch ∧ { b with sr := 0xF1 }.t = true ∧
    refuses (exec (.btS 2) b) .branchAfterUntakenDelayedBranch ∧ b.t = false ∧ b.delay = none ∧
    FollowedBy b (.bra 2) ∧ FollowedBy { b with sr := 0xF1 } (.bra 2) ∧ (Instr.bra 2).isBranchClass = true := by
  unfold FollowedBy; decide

end Sys2Proof.Tests.Slice0
end

section
/-! What a step does at a boundary with neither reset nor bus request, as equations: which event a running CPU takes, and
that otherwise it runs the word at `pc` (R13, R257, R335 to R338). -/

namespace Sys2Proof.Machine

/-! ### The state in which the instruction is fetched -/

@[simp] theorem executing_pc (s : State) : (executing s).pc = s.pc := rfl
@[simp] theorem executing_delay (s : State) : (executing s).delay = s.delay := rfl
@[simp] theorem executing_imask (s : State) : (executing s).imask = s.imask := rfl
@[simp] theorem executing_storedAt (s : State) : (executing s).storedAt = s.storedAt := rfl
@[simp] theorem executing_kindAt (s : State) (a : Word) : (executing s).kindAt a = s.kindAt a := rfl

/-- Where the CPU already runs, taking the boundary's input is all. -/
theorem executing_of_run {s : State} (h : s.mode = .run) : executing s = s.begin := by
  unfold executing
  rw [← h]
  rfl

/-! ### Fetching -/

/-- Words lie at even addresses (R64). -/
theorem aligned_word_eq (a : Word) : aligned .word a = !a.getLsbD 0 := by
  simp only [aligned, BitVec.getLsbD, Nat.testBit_zero]
  rcases Nat.mod_two_eq_zero_or_one a.toNat with h | h <;> simp [h]

theorem State.mapped_word_iff {s : State} {a : Word} :
    s.mapped .word a = true ↔ s.kindAt a ≠ .absent ∧ s.kindAt (a + 1) ≠ .absent := by
  simp [State.mapped, span]

theorem State.selfModified_eq_false_iff {s : State} {a : Word} :
    s.selfModified a = false ↔ a.toNat ∉ s.storedAt ∧ (a + 1).toNat ∉ s.storedAt := by
  simp [State.selfModified, span]

/-- `FetchesWord` says what the fetch of the coming step gives. -/
theorem fetch_executing_eq_word {s : State} {w : Half} : fetch (executing s) = .word w ↔ FetchesWord s w := by
  rw [fetch_eq_word, aligned_word_eq, State.mapped_word_iff, State.selfModified_eq_false_iff]
  simp only [executing_pc, executing_kindAt, executing_storedAt, Bool.not_eq_true', FetchesWord, State.codeAt]
  tauto

/-- A word that decodes is executed, its bytes noted as text of this run (R13, R78). -/
theorem executeNext_of_decode {s : State} {w : Half} {i : Instr} (hf : fetch s = .word w) (hd : decode w = .ok i) :
    executeNext s = exec i s.markFetched := by
  simp only [executeNext, hf, hd]

/-- A fetch from an odd address is the CPU's address error, and saves that address (R323 a, R331). -/
theorem executeNext_of_odd {s : State} (h : s.pc.getLsbD 0 = true) :
    executeNext s = exceptionEntry s vecAddressError s.pc none := by
  have hf : fetch s = .addressError := fetch_eq_addressError.2 (by rw [aligned_word_eq, h]; rfl)
  simp only [executeNext, hf]

/-! ### What a running CPU does at a boundary -/

/-- Nothing comes between a delayed branch and its slot (R257). -/
theorem runStep_of_slot {inp : Input} {s : State} {target : Word} (h : s.delay = some target) :
    runStep inp s = executeNext s := by
  simp only [runStep, h]

/-- A DMA address error is taken before an interrupt and before the next instruction (R324, R338). -/
theorem runStep_of_dmaError {inp : Input} {s : State} (hs : s.delay = none) (hd : inp.dmaError = true)
    (hpc : s.pc.getLsbD 0 = false) : runStep inp s = dmaErrorEntry s := by
  have ha : aligned .word s.pc = true := by rw [aligned_word_eq, hpc]; rfl
  simp [runStep, hs, hd, ha]

/-- The CPU's own address error goes before the DMA controller's (R338). -/
theorem runStep_of_dmaError_odd {inp : Input} {s : State} (hs : s.delay = none) (hd : inp.dmaError = true)
    (hpc : s.pc.getLsbD 0 = true) : runStep inp s = exceptionEntry s vecAddressError s.pc none := by
  have ha : aligned .word s.pc = false := by rw [aligned_word_eq, hpc]; rfl
  simp [runStep, hs, hd, ha, executeNext_of_odd hpc]

/-- An acceptable interrupt is taken before the next instruction (R335). -/
theorem runStep_of_accepted {inp : Input} {s : State} {r : Request} (hs : s.delay = none) (hd : inp.dmaError = false)
    (hr : acceptedRequest s.imask inp.requests = some r) : runStep inp s = interruptEntry s r := by
  simp [runStep, hs, hd, hr]

/-- With nothing to take, the next instruction runs (R13). -/
theorem runStep_of_quiet {inp : Input} {s : State} (hs : s.delay = none) (hd : inp.dmaError = false)
    (hr : acceptedRequest s.imask inp.requests = none) : runStep inp s = executeNext s := by
  simp [runStep, hs, hd, hr]

/-! ### Steps of a running CPU -/

/-- With neither reset nor bus request, a CPU that runs, or gets the bus back, acts in `executing s` (R13, R353). -/
theorem step_eq_runStep {s : State} (hm : s.mode = .run ∨ s.mode = .busReleased) (hr : s.boundary.reset = none)
    (hb : s.boundary.bus = none) : step s = runStep s.boundary (executing s) := by
  simp only [step, hr, hb, modeStep, State.begin_mode]
  rcases hm with h | h
  · simp only [h, executing_of_run h]
  · simp only [h, executing]

/-- Where `ReadyToExecute` holds, the step is the next instruction's. -/
theorem ReadyToExecute.step_eq {s : State} (h : ReadyToExecute s) : step s = executeNext (executing s) := by
  obtain ⟨hr, hb, hm, hq⟩ := h
  rw [step_eq_runStep hm hr hb]
  cases hs : s.delay with
  | none =>
    obtain ⟨hd, ha⟩ := hq hs
    exact runStep_of_quiet hs hd ha
  | some target => exact runStep_of_slot hs

/-- Settles O9: which event a running CPU takes at a boundary, by `runStep`'s cases. -/
theorem interruptsAndDmaErrorsEnterBetweenInstructions :
    Obligations.InterruptsAndDmaErrorsEnterBetweenInstructions := by
  intro s hm hr hb
  rw [step_eq_runStep hm hr hb]
  refine ⟨fun hs hd => ⟨?even, ?odd⟩, fun hs hd => ⟨?irq, ?nmi⟩, ?slot⟩
  case even => exact fun hpc => runStep_of_dmaError hs hd hpc
  case odd => exact fun hpc => runStep_of_dmaError_odd hs hd hpc
  case irq => exact fun level vector ha => runStep_of_accepted (r := .irq level vector) hs hd ha
  case nmi => exact fun ha => runStep_of_accepted (r := .nmi) hs hd ha
  case slot => exact fun target hs => runStep_of_slot hs

/-- Settles O5: the step is `executeNext`'s, whose fetch gives the word that `FetchesWord` names. -/
theorem stepRunsTheDecodedInstruction : Obligations.StepRunsTheDecodedInstruction := by
  intro s w i hready hfetch hdecode
  have hrun : executeNext (executing s) = exec i (executing s).markFetched :=
    executeNext_of_decode (fetch_executing_eq_word.2 hfetch) hdecode
  exact ⟨hready.step_eq.trans hrun, rfl⟩

end Sys2Proof.Machine
end

section
/-! What every instruction leaves: the ways `exec` ends, in one statement over all instructions. An instruction brings the
machine into a working state, in which it has written what R25 and R41 let it write and has not yet moved on; then it goes
on in sequence, jumps, arms a delayed branch, takes an exception or powers down. The claims about the writers of SR, of
the special registers, of the pending delay slot and of the mode, and the instructions' part of the invariant, are read
off from these five. -/

namespace Sys2Proof.Machine

variable {i : Instr} {s u t : State}

/-! ### Exception entry, power-down, LDC.L to SR -/

/-- Stores change memory and the stored-to addresses, and nothing else. -/
theorem State.storeBytes_eq (s : State) (bs : List (Word × Byte)) :
    s.storeBytes bs = { s with mem := (s.storeBytes bs).mem, storedAt := (s.storeBytes bs).storedAt } :=
  State.storeBytes_induction (P := fun u => u = { s with mem := u.mem, storedAt := u.storedAt })
    (fun u a v hu => by rw [hu]; rfl) rfl bs

/-- The pushes of an entry, and what other masters write before them, change nothing else either. -/
theorem State.pushFrame_eq (s : State) (savedPc : Word) :
    s.pushFrame savedPc = { s with
      mem := (s.pushFrame savedPc).mem, storedAt := (s.pushFrame savedPc).storedAt,
      between := (s.pushFrame savedPc).between } := by
  unfold State.pushFrame
  rw [State.storeBytes_eq (State.arbitrate _), State.storeBytes_eq s.arbitrate]
  rfl

/-- Entry changes the stack pointer, memory, SR, pc, the pending slot and the mode, and nothing else (R330). -/
theorem exceptionEntry_next_eq {v : BitVec 8} {savedPc : Word} {level : Option (BitVec 4)}
    (h : exceptionEntry s v savedPc level = .next t) :
    t = { s with
      regs := t.regs, sr := level.elim s.sr (srWithMask s.sr), pc := t.pc, delay := none, mode := .run,
      mem := t.mem, storedAt := t.storedAt, between := t.between } := by
  obtain ⟨-, -, -, -, -, -, -, -, rfl⟩ := exceptionEntry_next h
  rw [s.pushFrame_eq savedPc]
  rfl

/-- The pushes of an entry keep the canonical forms. -/
theorem State.pushFrame_wf (h : Memory.wf s.mem ∧ AddressSet.wf s.storedAt) (savedPc : Word) :
    Memory.wf (s.pushFrame savedPc).mem ∧ AddressSet.wf (s.pushFrame savedPc).storedAt :=
  State.storeBytes_wf (State.arbitrate_wf (State.storeBytes_wf (State.arbitrate_wf h) _)) _

theorem exceptionEntry_next_wf {v : BitVec 8} {savedPc : Word} {level : Option (BitVec 4)}
    (h : exceptionEntry s v savedPc level = .next t) (hs : Memory.wf s.mem ∧ AddressSet.wf s.storedAt) :
    Memory.wf t.mem ∧ AddressSet.wf t.storedAt := by
  obtain ⟨-, -, -, -, -, -, -, -, rfl⟩ := exceptionEntry_next h
  exact State.arbitrate_wf (State.pushFrame_wf hs savedPc)

/-- SLEEP's change of mode touches the accumulator, on-chip RAM, the mode and the DMA master bit, and nothing else
(R297, R355, R356). -/
theorem powerDown_eq (s : State) :
    powerDown s = { s with
      mach := (powerDown s).mach, macl := (powerDown s).macl, mode := (powerDown s).mode, mem := (powerDown s).mem,
      platform := { s.platform with dme := !s.platform.sby && s.platform.dme } } := by
  unfold powerDown
  cases hb : s.platform.sby
  · simp
  · obtain ⟨-, -, e⟩ | e := loseAccumulator_cases s <;> simp [enterStandby, e, loseOnChipRam]

/-- The accumulator is lost only in standby, after a multiplication (R38, U10). -/
theorem powerDown_keeps_accumulator (h : s.platform.sby = true → s.multSinceMach = false ∧ s.multSinceMacl = false) :
    (powerDown s).mach = s.mach ∧ (powerDown s).macl = s.macl := by
  unfold powerDown
  split
  · next hb =>
    obtain ⟨h1, h2⟩ := h hb
    simp [enterStandby, loseOnChipRam, loseAccumulator, h1, h2]
  · exact ⟨rfl, rfl⟩

/-- `LDC.L @Rm+,SR` is one read, of which a misaligned one leaves SR open (R285). -/
theorem execLdcLSr_eq (m : Reg) (s : State) :
    execLdcLSr m s = readThen s 0 .long (s.reg m)
      ((s.baseAfterError 0 m (s.reg m + 4)).setSr (Config.undefinedWord s.tick 0))
      fun u v => .next ((u.setReg m (s.reg m + 4)).setSr v).advance := rfl

/-! ### What an instruction may have written -/

/-- The instructions that replace SR as a whole write each of its flags. -/
theorem writes_flags_of_writesSr (h : i.writesSr = true) :
    i.writesT = true ∧ i.writesM = true ∧ i.writesQ = true := by
  unfold Instr.writesSr at h
  split at h
  case h_4 => cases h
  all_goals exact ⟨rfl, rfl, rfl⟩

/-- MACH and MACL are held through this execution of `i`, unless `i` writes them: it is not SLEEP into standby after a
multiplication (U10). -/
def HoldsAccumulator (i : Instr) (s : State) : Prop :=
  i = .sleep → s.platform.sby = true → s.multSinceMach = false ∧ s.multSinceMacl = false

/-- From `s` to `t` only what R25 and R41 let `i` write has changed of SR and of the special registers, the canonical forms
have been kept, and so have the reserved bits of SR and the bits of a stopped DMAC. -/
structure Confined (i : Instr) (s t : State) : Prop where
  canonical : Memory.wf s.mem ∧ AddressSet.wf s.storedAt → Memory.wf t.mem ∧ AddressSet.wf t.storedAt
  fetchedAt : t.fetchedAt = s.fetchedAt
  reserved : SrReservedClear s.sr → SrReservedClear t.sr
  flagT : i.writesT = false → t.t = s.t
  flagS : i.writesSr = false → t.sBit = s.sBit
  mask : i.writesSr = false → t.imask = s.imask
  flagM : i.writesM = false → t.m = s.m
  flagQ : i.writesQ = false → t.q = s.q
  gbr : i.writesGbr = false → t.gbr = s.gbr
  vbr : i.writesVbr = false → t.vbr = s.vbr
  pr : i.writesPr = false → t.pr = s.pr
  mach : i.writesMach = false → HoldsAccumulator i s → t.mach = s.mach
  macl : i.writesMacl = false → HoldsAccumulator i s → t.macl = s.macl
  dma : (s.platform.stopDmac = true → s.platform.dme = false) → t.platform.stopDmac = true → t.platform.dme = false

/-- `u` is a state in which `i`, begun in `s`, works: confined, and it has neither moved on nor changed the mode. -/
structure Working (i : Instr) (s u : State) : Prop extends Confined i s u where
  pc : u.pc = s.pc
  delay : u.delay = s.delay
  mode : u.mode = s.mode

namespace Working

theorem refl (i : Instr) (s : State) : Working i s s := by
  refine ⟨⟨id, rfl, id, ?_, ?_, ?_, ?_, ?_, ?_, ?_, ?_, ?_, ?_, id⟩, rfl, rfl, rfl⟩ <;> intros <;> rfl

/-- What other masters write is memory's (R353). -/
theorem arbitrate (h : Working i s u) : Working i s u.arbitrate :=
  { h with canonical := fun c => State.arbitrate_wf (h.canonical c) }

theorem storeBytes (h : Working i s u) (bs : List (Word × Byte)) : Working i s (u.storeBytes bs) := by
  have hwf := fun c => State.storeBytes_wf (h.canonical c) bs
  rw [u.storeBytes_eq]
  exact { h with canonical := hwf }

/-- A general register is any instruction's to write. -/
theorem setReg (h : Working i s u) (r : Reg) (v : Word) : Working i s (u.setReg r v) := { h with }

theorem baseAfterError (h : Working i s u) (k : Nat) (r : Reg) (v : Word) : Working i s (u.baseAfterError k r v) := by
  rcases u.baseAfterError_cases k r v with e | e <;> rw [e]
  · exact h
  · exact h.setReg r v

theorem setT (h : Working i s u) (hi : i.writesT = true) (b : Bool) : Working i s (u.setT b) :=
  { h with
    reserved := fun c => srReservedClear_setBit (h.reserved c) (by decide) b
    flagT := fun e => by simp [hi] at e
    flagS := fun e => by simpa using h.flagS e
    mask := fun e => by simpa using h.mask e
    flagM := fun e => by simpa using h.flagM e
    flagQ := fun e => by simpa using h.flagQ e }

theorem setQ (h : Working i s u) (hi : i.writesQ = true) (b : Bool) : Working i s (u.setQ b) :=
  { h with
    reserved := fun c => srReservedClear_setBit (h.reserved c) (by decide) b
    flagT := fun e => by simpa using h.flagT e
    flagS := fun e => by simpa using h.flagS e
    mask := fun e => by simpa using h.mask e
    flagM := fun e => by simpa using h.flagM e
    flagQ := fun e => by simp [hi] at e }

theorem setM (h : Working i s u) (hi : i.writesM = true) (b : Bool) : Working i s (u.setM b) :=
  { h with
    reserved := fun c => srReservedClear_setBit (h.reserved c) (by decide) b
    flagT := fun e => by simpa using h.flagT e
    flagS := fun e => by simpa using h.flagS e
    mask := fun e => by simpa using h.mask e
    flagM := fun e => by simp [hi] at e
    flagQ := fun e => by simpa using h.flagQ e }

theorem setSr (h : Working i s u) (hi : i.writesSr = true) (v : Word) : Working i s (u.setSr v) := by
  obtain ⟨ht, hm, hq⟩ := writes_flags_of_writesSr hi
  exact { h with
    reserved := fun _ => srReservedClear_masked v
    flagT := fun e => by simp [ht] at e
    flagS := fun e => by simp [hi] at e
    mask := fun e => by simp [hi] at e
    flagM := fun e => by simp [hm] at e
    flagQ := fun e => by simp [hq] at e }

theorem setGbr (h : Working i s u) (hi : i.writesGbr = true) (v : Word) : Working i s (u.setGbr v) :=
  { h with gbr := fun e => by simp [hi] at e }

theorem setVbr (h : Working i s u) (hi : i.writesVbr = true) (v : Word) : Working i s (u.setVbr v) :=
  { h with vbr := fun e => by simp [hi] at e }

theorem setPr (h : Working i s u) (hi : i.writesPr = true) (v : Word) : Working i s (u.setPr v) :=
  { h with pr := fun e => by simp [hi] at e }

theorem link (h : Working i s u) (hi : i.writesPr = true) : Working i s u.link := h.setPr hi u.pcValue

theorem setMach (h : Working i s u) (hi : i.writesMach = true) (v : Word) : Working i s (u.setMach v) :=
  { h with mach := fun e => by simp [hi] at e }

theorem setMacl (h : Working i s u) (hi : i.writesMacl = true) (v : Word) : Working i s (u.setMacl v) :=
  { h with macl := fun e => by simp [hi] at e }

theorem withMacl (h : Working i s u) (hi : i.writesMacl = true) (v : Word) : Working i s { u with macl := v } :=
  { h with macl := fun e => by simp [hi] at e }

theorem setMac (h : Working i s u) (h1 : i.writesMach = true) (h2 : i.writesMacl = true) (v : BitVec 64) :
    Working i s (u.setMac v) :=
  { h with
    mach := fun e => by simp [h1] at e
    macl := fun e => by simp [h2] at e }

theorem multiplied (h : Working i s u) : Working i s u.multiplied := { h with }

/-- The operands of MAC are read and both registers advanced. -/
theorem macAdvanced (h : Working i s u) (sz : Size) (m n : Reg) : Working i s (u.macAdvanced sz m n) :=
  ((h.arbitrate.arbitrate).setReg n _).setReg m _

theorem of_leftByMac (h : Working i s u) {sz : Size} {m n : Reg} {x : State} (hx : u.LeftByMac sz m n x) :
    Working i s x := by
  obtain ⟨a, b, -, -, rfl⟩ := hx
  exact (h.setReg n a).setReg m b

end Working

/-! ### The ways an instruction ends -/

/-- `i`, executed in `s`, answers `t`. -/
inductive Ends (i : Instr) (s : State) : State → Prop where
  /-- In sequence (R34, R36). -/
  | sequential {u : State} (hu : Working i s u) : Ends i s u.advance
  /-- By setting pc at once, not in a delay slot (R251, R253). -/
  | jump {u : State} (hu : Working i s u) (hd : s.delay = none) (target : Word) : Ends i s { u with pc := target }
  /-- By arming a delayed branch, not in a delay slot (R251, R253). -/
  | delayed {u : State} (hu : Working i s u) (hi : i.isDelayedBranch = true) (hd : s.delay = none) (target : Word) :
      Ends i s (u.branchDelayed target)
  /-- In an exception that leaves the mask alone (R330). -/
  | exception {u t : State} (hu : Working i s u) {v : BitVec 8} {savedPc : Word}
      (he : exceptionEntry u v savedPc none = .next t) : Ends i s t
  /-- In sleep or standby mode (R297). -/
  | asleep (hi : i = .sleep) : Ends i s (powerDown s.advance)

theorem Confined.of_entry (h : Confined i s u) {v : BitVec 8} {savedPc : Word}
    (he : exceptionEntry u v savedPc none = .next t) : Confined i s t := by
  have hwf := exceptionEntry_next_wf he
  rw [exceptionEntry_next_eq he]
  exact { h with canonical := fun c => hwf (h.canonical c) }

theorem Confined.of_powerDown (s : State) : Confined .sleep s (powerDown s.advance) := by
  have hmem : Memory.wf s.mem → Memory.wf (powerDown s.advance).mem := powerDown_wf (s := s.advance)
  have hacc : HoldsAccumulator .sleep s → _ := fun h => powerDown_keeps_accumulator (s := s.advance) (h rfl)
  rw [powerDown_eq]
  exact { Working.refl .sleep s with
    canonical := fun c => ⟨hmem c.1, c.2⟩
    mach := fun _ h => (hacc h).1
    macl := fun _ h => (hacc h).2
    dma := fun h hstop => by simp [h hstop] }

/-- Whatever way it ends, an instruction changes no register and no flag but its own. -/
theorem Ends.confined (h : Ends i s t) : Confined i s t := by
  cases h with
  | sequential hu => exact { hu with }
  | jump hu => exact { hu with }
  | delayed hu => exact { hu with }
  | exception hu he => exact hu.toConfined.of_entry he
  | asleep hi => exact hi ▸ Confined.of_powerDown s

/-- A slot is pending afterwards only in one of the five ways. -/
theorem Ends.delay_pending (h : Ends i s t) (ht : t.delay ≠ none) :
    i.isDelayedBranch = true ∧ s.delay = none ∧ t.pc = s.pc + 2 ∧ t.mode = s.mode := by
  cases h with
  | sequential => exact absurd rfl ht
  | jump hu hd => exact absurd (hu.delay.trans hd) ht
  | delayed hu hi hd => exact ⟨hi, hd, congrArg (· + 2) hu.pc, hu.mode⟩
  | exception hu he => exact absurd (congrArg State.delay (exceptionEntry_next_eq he)) ht
  | asleep => exact absurd (congrArg State.delay (powerDown_eq s.advance)) ht

/-- Program execution goes on but after SLEEP. -/
theorem Ends.mode_run (h : Ends i s t) (hs : s.mode = .run) (hi : i ≠ .sleep) : t.mode = .run := by
  cases h with
  | sequential hu => exact hu.mode.trans hs
  | jump hu => exact hu.mode.trans hs
  | delayed hu => exact hu.mode.trans hs
  | exception hu he => exact congrArg State.mode (exceptionEntry_next_eq he)
  | asleep h => exact absurd h hi

/-! ### The shared operations, each ending in one of these ways -/

theorem notInSlot_ends {r : Result} (h : notInSlot s r = .next t)
    (hr : s.delay = none → r = .next t → Ends i s t) : Ends i s t := by
  obtain ⟨hd, h⟩ | ⟨target, -, h⟩ := notInSlot_next h
  · exact hr hd h
  · exact .exception (.refl i s) h

theorem sequential_ends (hu : Working i s u) (h : (.next u.advance : Result) = .next t) : Ends i s t :=
  Host.Outcome.next.inj h ▸ .sequential hu

theorem setReg_ends {n : Reg} {v : Word} (h : (.next (s.setReg n v).advance : Result) = .next t) : Ends i s t :=
  sequential_ends ((Working.refl i s).setReg n v) h

theorem setT_ends {b : Bool} (hi : i.writesT = true) (h : (.next (s.setT b).advance : Result) = .next t) :
    Ends i s t :=
  sequential_ends ((Working.refl i s).setT hi b) h

theorem setRegT_ends {n : Reg} {v : Word} {b : Bool} (hi : i.writesT = true)
    (h : (.next ((s.setReg n v).setT b).advance : Result) = .next t) : Ends i s t :=
  sequential_ends (((Working.refl i s).setReg n v).setT hi b) h

/-- DMULS.L and DMULU.L. -/
theorem setMac_ends {v : BitVec 64} (h1 : i.writesMach = true) (h2 : i.writesMacl = true)
    (h : multiplierGuard s (.next (s.setMac v).multiplied.advance) = .next t) : Ends i s t :=
  sequential_ends ((Working.refl i s).setMac h1 h2 v).multiplied (multiplierGuard_next h).2

/-- MUL.L, MULS.W and MULU.W. -/
theorem putMacl_ends {v : Word} (hi : i.writesMacl = true) (h : multiplierGuard s (putMacl s v) = .next t) :
    Ends i s t :=
  sequential_ends ((Working.refl i s).withMacl hi v).multiplied (multiplierGuard_next h).2

/-- MAC.L and MAC.W, `g` the new accumulator. -/
theorem mac_ends {sz : Size} {m n : Reg} {g : State → Word → Word → BitVec 64} (h1 : i.writesMach = true)
    (h2 : i.writesMacl = true)
    (h : multiplierGuard s (macOperands s sz m n fun u a b => .next (u.setMac (g u a b)).multiplied.advance) = .next t) :
    Ends i s t := by
  obtain ⟨-, -, -, -, h⟩ | ⟨x, hx, he⟩ := macOperands_next (multiplierGuard_next h).2
  · exact sequential_ends (((Working.refl i s).macAdvanced sz m n).setMac h1 h2 _).multiplied h
  · rcases hx with hx | hx
    · exact .exception ((Working.refl i s).of_leftByMac hx) he
    · exact .exception ((Working.refl i s).arbitrate.of_leftByMac hx) he

theorem loadInto_ends {sz : Size} {a : Word} {n : Reg} (h : loadInto s sz a n = .next t) : Ends i s t := by
  obtain ⟨-, -, rfl⟩ | he := loadInto_next h
  · exact .sequential ((Working.refl i s).arbitrate.setReg n _)
  · exact .exception (.refl i s) he

theorem loadIncInto_ends {sz : Size} {m n : Reg} (h : loadIncInto s sz m n = .next t) : Ends i s t := by
  obtain ⟨-, -, rfl⟩ | he := loadIncInto_next h
  · exact .sequential (((Working.refl i s).arbitrate.setReg m _).setReg n _)
  · exact .exception ((Working.refl i s).baseAfterError 0 m _) he

theorem storeFrom_ends {sz : Size} {a v : Word} (h : storeFrom s sz a v = .next t) : Ends i s t := by
  obtain ⟨-, -, -, rfl⟩ | he := storeFrom_next h
  · exact .sequential ((Working.refl i s).arbitrate.storeBytes _)
  · exact .exception (.refl i s) he

theorem storeDecFrom_ends {sz : Size} {n : Reg} {v : Word} (h : storeDecFrom s sz n v = .next t) : Ends i s t := by
  obtain ⟨-, -, -, rfl⟩ | he := storeDecFrom_next h
  · exact .sequential (((Working.refl i s).arbitrate.storeBytes _).setReg n _)
  · exact .exception ((Working.refl i s).baseAfterError 0 n _) he

theorem modifyByte_ends {f : Word → Word} (h : modifyByte s f = .next t) : Ends i s t := by
  obtain ⟨-, -, rfl⟩ := modifyByte_next h
  exact .sequential ((Working.refl i s).arbitrate.arbitrate.storeBytes _)

theorem execTstB_ends {imm : BitVec 8} (hi : i.writesT = true) (h : execTstB imm s = .next t) : Ends i s t := by
  obtain ⟨-, -, h⟩ | ⟨-, he⟩ := readThen_next h
  · exact sequential_ends ((Working.refl i s).arbitrate.setT hi _) h
  · exact .exception (.refl i s) he

theorem execTasB_ends {n : Reg} (hi : i.writesT = true) (h : execTasB n s = .next t) : Ends i s t := by
  obtain ⟨-, -, h⟩ | ⟨-, he⟩ := readThen_next h
  · obtain ⟨-, -, -, h⟩ | ⟨-, he⟩ := writeHeld_next h
    · exact sequential_ends (((Working.refl i s).arbitrate.storeBytes _).setT hi _) h
    · exact .exception (Working.refl i s).arbitrate he
  · exact .exception (.refl i s) he

/-- LDC.L and LDS.L, where `i` may write what `put` writes. -/
theorem loadSystem_ends {m : Reg} {put : State → Word → State}
    (hput : ∀ u v, Working i s u → Working i s (put u v)) (h : loadSystem s m put = .next t) : Ends i s t := by
  obtain ⟨-, -, rfl⟩ | he := loadSystem_next h
  · exact .sequential (hput _ _ ((Working.refl i s).arbitrate.setReg m _))
  · exact .exception ((Working.refl i s).baseAfterError 0 m _) he

theorem pushSystem_ends {n : Reg} {v : Word} (h : pushSystem s n v = .next t) : Ends i s t := by
  obtain ⟨-, -, -, rfl⟩ | he := pushSystem_next h
  · exact .sequential (((Working.refl i s).arbitrate.storeBytes _).setReg n _)
  · exact .exception ((Working.refl i s).baseAfterError 0 n _) he

theorem execLdcLSr_ends {m : Reg} (hi : i.writesSr = true) (h : execLdcLSr m s = .next t) : Ends i s t := by
  rw [execLdcLSr_eq] at h
  obtain ⟨-, -, h⟩ | ⟨-, he⟩ := readThen_next h
  · exact sequential_ends (((Working.refl i s).arbitrate.setReg m _).setSr hi _) h
  · exact .exception (((Working.refl i s).baseAfterError 0 m _).setSr hi _) he

/-- BF and BT. -/
theorem branchAtOnce_ends {taken : Bool} {target : Word}
    (h : notInSlot s (branchAtOnce s taken target) = .next t) : Ends i s t :=
  notInSlot_ends h fun hd h => Host.Outcome.next.inj h ▸ .jump (.refl i s) hd _

/-- BF/S and BT/S. -/
theorem branchConditionalDelayed_ends {taken : Bool} {target : Word} (hi : i.isDelayedBranch = true)
    (h : notInSlot s (branchConditionalDelayed s taken target) = .next t) : Ends i s t :=
  notInSlot_ends h fun hd h => by
    obtain ⟨-, rfl⟩ | ⟨-, -, rfl⟩ := branchConditionalDelayed_next h
    · exact .delayed (.refl i s) hi hd target
    · exact .jump (.refl i s) hd _

/-- BRA, BRAF, JMP and RTS. -/
theorem branchDelayed_ends {target : Word} (hi : i.isDelayedBranch = true)
    (h : notInSlot s (.next (s.branchDelayed target)) = .next t) : Ends i s t :=
  notInSlot_ends h fun hd h => Host.Outcome.next.inj h ▸ .delayed (.refl i s) hi hd target

/-- BSR, BSRF and JSR. -/
theorem link_ends {target : Word} (hi : i.isDelayedBranch = true) (hpr : i.writesPr = true)
    (h : notInSlot s (.next (s.link.branchDelayed target)) = .next t) : Ends i s t :=
  notInSlot_ends h fun hd h => Host.Outcome.next.inj h ▸ .delayed ((Working.refl i s).link hpr) hi hd target

theorem execRte_ends (hi : i.isDelayedBranch = true) (hsr : i.writesSr = true) (h : execRte s = .next t) :
    Ends i s t :=
  notInSlot_ends h fun hd h => by
    obtain ⟨-, -, -, -, rfl⟩ | ⟨u, rfl | rfl, he⟩ := returnFromException_next h
    · exact .delayed (((Working.refl i s).arbitrate.arbitrate.setReg 15 _).setSr hsr _) hi hd _
    · exact .exception ((Working.refl i _).baseAfterError 0 15 _) he
    · exact .exception ((Working.refl i s).arbitrate.baseAfterError 0 15 _) he

theorem execTrapa_ends {imm : BitVec 8} (h : execTrapa imm s = .next t) : Ends i s t :=
  notInSlot_ends h fun _ he => .exception (.refl i s) he

/-! ### Every instruction -/

/-- Every instruction that answers a next state ends in one of the five ways; instructions of one shared operation stand
together. -/
theorem exec_ends (h : exec i s = .next t) : Ends i s t := by
  cases i with
  | movImm | mov | movt | swapB | swapW | xtrct | addR | addImm | extsB | extsW | extuB | extuW | neg | subR | andR |
    andImm | notR | orR | orImm | xorR | xorImm | shll2 | shlr2 | shll8 | shlr8 | shll16 | shlr16 | stcSr | stcGbr |
    stcVbr | stsPr => exact setReg_ends h
  | mova => exact setReg_ends (pcOperandGuard_next h).2
  | stsMach | stsMacl => exact setReg_ends (multiplierGuard_next h).2
  | cmpEqImm | cmpEq | cmpHs | cmpGe | cmpHi | cmpGt | cmpPz | cmpPl | cmpStr | tstR | tstImm | clrt | sett =>
    exact setT_ends rfl h
  | addc | addv | dt | negc | subc | subv | rotl | rotr | rotcl | rotcr | shal | shar | shll | shlr =>
    exact setRegT_ends rfl h
  | div1 m n => exact sequential_ends ((((Working.refl _ s).setReg n _).setQ rfl _).setT rfl _) h
  | div0s => exact sequential_ends ((((Working.refl _ s).setQ rfl _).setM rfl _).setT rfl _) h
  | div0u => exact sequential_ends ((((Working.refl _ s).setM rfl _).setQ rfl _).setT rfl _) h
  | dmulsL | dmuluL => exact setMac_ends rfl rfl h
  | mulL | mulsW | muluW => exact putMacl_ends rfl h
  | macL | macW => exact mac_ends rfl rfl h
  | movWPc | movLPc => exact loadInto_ends (pcOperandGuard_next h).2
  | movBLoad | movWLoad | movLLoad | movBLoadDisp | movWLoadDisp | movLLoadDisp | movBLoadIdx | movWLoadIdx |
    movLLoadIdx | movBLoadGbr | movWLoadGbr | movLLoadGbr => exact loadInto_ends h
  | movBLoadInc | movWLoadInc | movLLoadInc => exact loadIncInto_ends h
  | movBStore | movWStore | movLStore | movBStoreDisp | movWStoreDisp | movLStoreDisp | movBStoreIdx | movWStoreIdx |
    movLStoreIdx | movBStoreGbr | movWStoreGbr | movLStoreGbr => exact storeFrom_ends h
  | movBStoreDec | movWStoreDec | movLStoreDec => exact storeDecFrom_ends h
  | andB | orB | xorB => exact modifyByte_ends h
  | tstB => exact execTstB_ends rfl h
  | tasB => exact execTasB_ends rfl h
  | bf | bt => exact branchAtOnce_ends h
  | bfS | btS => exact branchConditionalDelayed_ends rfl h
  | bra | braf | jmp | rts => exact branchDelayed_ends rfl h
  | bsr | bsrf | jsr => exact link_ends rfl rfl h
  | clrmac => exact sequential_ends (((Working.refl _ s).setMach rfl 0).setMacl rfl 0) (multiplierGuard_next h).2
  | ldcSr => exact sequential_ends ((Working.refl _ s).setSr rfl _) h
  | ldcGbr => exact sequential_ends ((Working.refl _ s).setGbr rfl _) h
  | ldcVbr => exact sequential_ends ((Working.refl _ s).setVbr rfl _) h
  | ldsPr => exact sequential_ends ((Working.refl _ s).setPr rfl _) h
  | ldsMach => exact sequential_ends ((Working.refl _ s).setMach rfl _) (multiplierGuard_next h).2
  | ldsMacl => exact sequential_ends ((Working.refl _ s).setMacl rfl _) (multiplierGuard_next h).2
  | ldcLSr => exact execLdcLSr_ends rfl h
  | ldcLGbr => exact loadSystem_ends (fun _ v hu => hu.setGbr rfl v) h
  | ldcLVbr => exact loadSystem_ends (fun _ v hu => hu.setVbr rfl v) h
  | ldsLPr => exact loadSystem_ends (fun _ v hu => hu.setPr rfl v) h
  | ldsLMach => exact loadSystem_ends (fun _ v hu => hu.setMach rfl v) (multiplierGuard_next h).2
  | ldsLMacl => exact loadSystem_ends (fun _ v hu => hu.setMacl rfl v) (multiplierGuard_next h).2
  | stcLSr | stcLGbr | stcLVbr | stsLPr => exact pushSystem_ends h
  | stsLMach | stsLMacl => exact pushSystem_ends (multiplierGuard_next h).2
  | nop => exact sequential_ends (.refl _ s) h
  | rte => exact execRte_ends rfl rfl h
  | sleep => exact Host.Outcome.next.inj h ▸ .asleep rfl
  | trapa => exact execTrapa_ends h

/-! ### The writers of 10_state.md -/

/-- Settles O57: of SR an instruction changes its own bits only. -/
theorem statusBitsChangeOnlyByTheirWriters : Obligations.StatusBitsChangeOnlyByTheirWriters := by
  intro i s t h
  have hc : Confined i s t := (exec_ends h).confined
  exact ⟨hc.flagT, fun hi => ⟨hc.flagS hi, hc.mask hi⟩, hc.flagM, hc.flagQ⟩

/-- Settles O58: so it does of the special registers, SLEEP's loss of the accumulator apart. -/
theorem specialRegistersChangeOnlyByTheirWriters : Obligations.SpecialRegistersChangeOnlyByTheirWriters := by
  intro i s t h
  have hc : Confined i s t := (exec_ends h).confined
  exact ⟨hc.gbr, hc.vbr, hc.pr, hc.mach, hc.macl⟩

/-- Settles O59: of the five ways one leaves a slot pending, and one leaves program execution. -/
theorem delaySlotsAndModesArePairedWithTheirInstructions :
    Obligations.DelaySlotsAndModesArePairedWithTheirInstructions := by
  intro i s t h
  have he : Ends i s t := exec_ends h
  refine ⟨fun ht => ?_, he.mode_run⟩
  obtain ⟨hi, hd, hpc, -⟩ := he.delay_pending ht
  exact ⟨hi, hd, hpc⟩

end Sys2Proof.Machine
end

section
/-! The invariant: it holds of the state after reset, and whatever a step does keeps it, the instruction's part by the five
ways an instruction ends. -/

namespace Sys2Proof.Machine

variable {i : Instr} {s t : State}

/-! ### What comes before and between instructions -/

/-- The platform may stop the DMAC only with its master enable bit cleared (R357). -/
theorem Platform.settled_dma (p : Platform) : p.settled.stopDmac = true → p.settled.dme = false := by
  unfold Platform.settled
  split
  · exact fun _ => rfl
  · next h => exact fun h' => absurd h' h

theorem State.Inv.begin (h : s.Inv) : s.begin.Inv :=
  { h with
    dma := by
      unfold State.begin
      cases s.boundary.platform with
      | none => exact h.dma
      | some p => exact p.settled_dma }

/-- The bus may come back to the CPU at any time. -/
theorem State.Inv.running (h : s.Inv) : ({ s with mode := .run } : State).Inv :=
  { h with asleep := fun hm => by simp at hm }

theorem State.Inv.markFetched (h : s.Inv) : s.markFetched.Inv :=
  { h with fetchedAt := State.markFetched_wf h.fetchedAt }

theorem State.Inv.releaseBus (h : s.Inv) (ws : List (Word × Byte)) : (s.releaseBus ws).Inv := by
  obtain ⟨hmem, hstored⟩ := State.busWrites_wf ⟨h.memory, h.storedAt⟩ ws
  refine { h with memory := hmem, storedAt := hstored, asleep := fun hm => h.asleep ?_ }
  unfold State.releaseBus at hm
  split at hm
  · simp at hm
  · exact hm

/-! ### Reset -/

/-- SR after a reset: the mask and open flags, no reserved bit. -/
theorem resetSr_reservedClear (tick : Nat) : SrReservedClear (resetSr tick) := by
  have hmask : resetSr tick = (0x000000F0 ||| Config.undefinedWord tick 16 &&& 0x00000303) &&& srMask := by
    rw [BitVec.and_or_distrib_right, BitVec.and_assoc]
    rfl
  rw [hmask]
  exact srReservedClear_masked _

theorem resetSequence_inv {kind : ResetKind} (hs : s.Inv) (h : resetSequence kind s = .next t) : t.Inv := by
  obtain ⟨-, -, rfl⟩ := resetSequence_next h
  obtain ⟨-, hnoStored, hnoFetched⟩ := State.reset_wf
  exact {
    memory := (State.arbitrate_wf (State.arbitrate_wf ⟨hs.memory, hs.storedAt⟩)).1
    storedAt := hnoStored
    fetchedAt := hnoFetched
    reserved := resetSr_reservedClear s.tick
    asleep := fun _ => rfl
    dma := hs.dma }

/-! ### Exceptions and instructions -/

theorem exceptionEntry_inv {v : BitVec 8} {savedPc : Word} {level : Option (BitVec 4)} (hs : s.Inv)
    (h : exceptionEntry s v savedPc level = .next t) : t.Inv := by
  obtain ⟨hmem, hstored⟩ := exceptionEntry_next_wf h ⟨hs.memory, hs.storedAt⟩
  have hsr : SrReservedClear (level.elim s.sr (srWithMask s.sr)) := by
    cases level with
    | none => exact hs.reserved
    | some l => exact srReservedClear_withMask hs.reserved l
  rw [exceptionEntry_next_eq h]
  exact { hs with memory := hmem, storedAt := hstored, reserved := hsr, asleep := fun _ => rfl }

/-- An instruction that runs in program execution keeps the invariant: where it leaves a slot pending, execution goes on. -/
theorem exec_inv (hs : s.Inv) (hm : s.mode = .run) (h : exec i s = .next t) : t.Inv := by
  have he : Ends i s t := exec_ends h
  have hc : Confined i s t := he.confined
  obtain ⟨hmem, hstored⟩ := hc.canonical ⟨hs.memory, hs.storedAt⟩
  exact {
    memory := hmem
    storedAt := hstored
    fetchedAt := hc.fetchedAt ▸ hs.fetchedAt
    reserved := hc.reserved hs.reserved
    asleep := fun hasleep => by
      by_contra hpending
      obtain ⟨-, -, -, hmode⟩ := he.delay_pending hpending
      simp [hmode, hm] at hasleep
    dma := hc.dma hs.dma }

theorem executeNext_inv (hs : s.Inv) (hm : s.mode = .run) (h : executeNext s = .next t) : t.Inv := by
  obtain ⟨-, h⟩ | ⟨w, -, ⟨i, -, h⟩ | ⟨-, h⟩⟩ := executeNext_next h
  · exact exceptionEntry_inv hs h
  · exact exec_inv hs.markFetched hm h
  · obtain ⟨-, h⟩ | ⟨target, -, h⟩ := illegalInstruction_next h <;> exact exceptionEntry_inv hs.markFetched h

/-! ### Steps -/

theorem runStep_inv {inp : Input} (hs : s.Inv) (hm : s.mode = .run) (h : runStep inp s = .next t) : t.Inv := by
  obtain h | ⟨-, ⟨-, -, h⟩ | ⟨r, -, h⟩⟩ := runStep_next h
  · exact executeNext_inv hs hm h
  · exact exceptionEntry_inv hs h
  · exact exceptionEntry_inv hs h

theorem sleepStep_inv {inp : Input} (hs : s.Inv) (h : sleepStep inp s = .next t) : t.Inv := by
  obtain rfl | ⟨-, h⟩ | ⟨r, -, h⟩ := sleepStep_next h
  · exact hs
  · exact exceptionEntry_inv hs h
  · exact exceptionEntry_inv hs h

theorem standbyStep_inv {inp : Input} (hs : s.Inv) (h : standbyStep inp s = .next t) : t.Inv := by
  obtain rfl | ⟨-, h⟩ := standbyStep_next h
  · exact hs
  · exact exceptionEntry_inv hs h

/-- Settles O16, by the ways a step answers a next state. -/
theorem everyStepKeepsTheInvariant : Obligations.EveryStepKeepsTheInvariant := by
  intro s t hs h
  obtain ⟨kind, -, h⟩ | ⟨-, hquiet⟩ := step_next h
  · exact resetSequence_inv hs.begin h
  obtain ⟨ws, -, rfl⟩ | ⟨-, hmode⟩ := hquiet
  · exact hs.begin.releaseBus ws
  obtain ⟨hm, h⟩ | ⟨-, h⟩ | ⟨-, h⟩ | ⟨-, h⟩ := hmode
  · exact runStep_inv hs.begin hm h
  · exact runStep_inv hs.begin.running rfl h
  · exact sleepStep_inv hs.begin h
  · exact standbyStep_inv hs.begin h

/-! ### The state after reset -/

/-- Settles O15: empty memory and empty sets are canonical, and SR is the mask alone. -/
theorem invariantHoldsAtReset : Obligations.InvariantHoldsAtReset := by
  obtain ⟨hmem, hstored, hfetched⟩ := State.reset_wf
  exact ⟨hmem, hstored, hfetched, by decide, fun _ => rfl, by decide⟩

/-- Memory reads as zeros where nothing is listed, so everywhere after reset (log 25). -/
theorem loadedValue_reset (k : Nat) (a : Word) : loadedValue State.reset k .long a = 0 := by
  have hbyte (b : Word) : State.reset.byteAt k b = 0 := if_neg (show RegionKind.ram ≠ .device by decide)
  simp only [loadedValue, hbyte]
  rfl

/-- Settles O14: both vectors read as 0, as pc and R15 stand in the reset state. -/
theorem resetStateHasTheStatedValues : Obligations.ResetStateHasTheStatedValues := by
  refine ⟨by decide, by decide, rfl, ?pc, ?sp, rfl, rfl⟩
  case pc => exact (loadedValue_reset 0 0).symm
  case sp => exact (loadedValue_reset 1 4).symm

end Sys2Proof.Machine
end

section
/-! The moves of SR: what a load through the mask leaves, what a push of a system register does, and that their codes
decode to them. -/

namespace Sys2Proof

/-- The code of format n or m decodes by its nibbles. -/
theorem decode_codeN {op : BitVec 4} {r : Reg} {last : BitVec 8} {i : Instr}
    (h : decodeNibbles op (field r) (last.extractLsb' 4 4) (last.extractLsb' 0 4) = some i) :
    decode (codeN op r last) = .ok i := by
  rw [codeN, nibbles_of_byte, decode_nibbles, h]

end Sys2Proof

namespace Sys2Proof.Machine

variable {i : Instr} {w : Half} {s u : State}

/-- An update that leaves pc and the pending slot alone goes on in sequence. -/
theorem sequential_advance (h : u.nextPc = s.nextPc) : Sequential s u.advance := ⟨h, rfl⟩

/-! ### STC.L and STS.L -/

theorem pushSystem_eq (s : State) (n : Reg) (v : Word) :
    pushSystem s n v = writeThen s .long (s.reg n - Size.long.bytes) v
      (s.baseAfterError 0 n (s.reg n - Size.long.bytes))
      fun t => .next (t.setReg n (s.reg n - Size.long.bytes)).advance := rfl

/-- A push of a system register is a store at `@-Rn` (R301 to R303, R307 to R309). -/
theorem storesDec_of_pushSystem {n : Reg} {v : Word} (hdecode : decode w = .ok i)
    (hexec : exec i s = pushSystem s n v) : StoresDec w i s .long n v := by
  rw [pushSystem_eq] at hexec
  refine ⟨fun ha hm hw => ⟨hdecode, _, hexec.trans (writeThen_ok ha hm hw), ?next, ?frame, ?holds, ?base⟩,
    ⟨fun ha hm => ?absent, fun ha hm hw => ?rom⟩, fun ha => ⟨hdecode, _, s.baseAfterError_cases 0 n _, ?misaligned⟩⟩
  case next => exact sequential_advance (by simp)
  case frame =>
    exact (((Frame.one s rfl).store (fun _ hb => hb) v).setReg (List.mem_singleton.2 rfl) _).advance
  case holds => exact (State.store_holds s.arbitrate .long _ v).of_eq (fun _ => rfl) fun _ _ => rfl
  case base => simp
  case absent => exact hexec.trans (writeThen_absent ha hm)
  case rom => exact hexec.trans (writeThen_rom ha hm hw)
  case misaligned => exact hexec.trans (writeThen_misaligned ha)

/-! ### LDC and LDC.L to SR, STC from SR -/

theorem ldcSr_completes (m : Reg) (s : State) :
    Completes (codeN 0b0100 m 0b00001110) (.ldcSr m) s { srBits := allSrBits } fun t => t.sr = s.reg m &&& 0x3F3 :=
  ⟨decode_codeN rfl, _, rfl, sequential_advance (by simp), ((Frame.refl s rfl).setSr rfl _).advance, rfl⟩

theorem stcSr_completes (n : Reg) (s : State) :
    Completes (codeN 0b0000 n 0b00000010) (.stcSr n) s { regs := [n] } fun t => t.reg n = s.sr &&& 0x3F3 :=
  ⟨decode_codeN rfl, _, rfl, sequential_advance (by simp),
    ((Frame.refl s rfl).setReg (List.mem_singleton.2 rfl) _).advance, by simp [State.srValue, srMask]⟩

theorem ldcLSr_completes {m : Reg} (ha : aligned .long (s.reg m) = true) (hm : s.mapped .long (s.reg m) = true) :
    Completes (codeN 0b0100 m 0b00000111) (.ldcLSr m) s { regs := [m], srBits := allSrBits, accesses := 1 } fun t =>
      t.sr = loadedValue s.arbitrate 0 .long (s.reg m) &&& 0x3F3 ∧ t.reg m = s.reg m + 4 :=
  ⟨decode_codeN rfl, _, (execLdcLSr_eq m s).trans (readThen_ok ha hm), sequential_advance (by simp),
    (((Frame.one s rfl).setReg (List.mem_singleton.2 rfl) _).setSr rfl _).advance, rfl, by simp⟩

/-- The base register of a misaligned LDC.L: old or increased, and all else as it was (U2). -/
theorem leftByAddressError_baseAfterError (m : Reg) (s : State) :
    let b := s.baseAfterError 0 m (s.reg m + 4)
    LeftByAddressError [m] allSrBits 0 s b ∧ (b.reg m = s.reg m ∨ b.reg m = s.reg m + 4) := by
  have hframe : Frame { regs := [m], srBits := allSrBits } s s := Frame.refl s rfl
  obtain e | e := s.baseAfterError_cases 0 m (s.reg m + 4) <;> rw [e]
  · exact ⟨⟨hframe, rfl, rfl⟩, .inl rfl⟩
  · exact ⟨⟨hframe.setReg (List.mem_singleton.2 rfl) _, rfl, rfl⟩, .inr (by simp)⟩

/-- The state a misaligned LDC.L leaves: SR too is open, but for its reserved bits (R285). -/
theorem ldcLSr_misaligned {m : Reg} (ha : aligned .long (s.reg m) = false) :
    ∃ u, LeftByAddressError [m] allSrBits 0 s u ∧ SrReservedClear u.sr ∧
      (u.reg m = s.reg m ∨ u.reg m = s.reg m + 4) ∧ exec (.ldcLSr m) s = addressErrorEntry u := by
  obtain ⟨⟨hframe, hpc, hdelay⟩, hreg⟩ := leftByAddressError_baseAfterError m s
  exact ⟨_, ⟨hframe.setSr rfl (Config.undefinedWord s.tick 0), hpc, hdelay⟩, srReservedClear_masked _, hreg,
    (execLdcLSr_eq m s).trans (readThen_misaligned ha)⟩

/-- Settles O53: each of the four moves by its own rule above. -/
theorem movesOfTheStatusRegister : Obligations.MovesOfTheStatusRegister := by
  intro m n s
  refine ⟨ldcSr_completes m s, stcSr_completes n s, ldcLSr_completes, fun ha hm => ?absent, ldcLSr_misaligned, ?push⟩
  case absent => exact (execLdcLSr_eq m s).trans (readThen_absent ha hm)
  case push => exact storesDec_of_pushSystem (decode_codeN rfl) rfl

end Sys2Proof.Machine
end

section
/-! Fetches that run no instruction: the words of the table of R108 do not decode, and what the next instruction is where
the fetch gives no word (R68, R78, R82, R109). -/

namespace Sys2Proof

/-! ### Undefined words -/

/-- A word as a number, by its nibbles. -/
theorem half_toNat_nibbles (w : Half) :
    w.toNat = 4096 * (w.extractLsb' 12 4).toNat + 256 * (w.extractLsb' 8 4).toNat +
      16 * (w.extractLsb' 4 4).toNat + (w.extractLsb' 0 4).toNat := by
  have hw : w.toNat < 65536 := w.isLt
  simp only [BitVec.extractLsb'_toNat, Nat.shiftRight_eq_div_pow]
  omega

/-- The words `0000 ....` that R108 lists, `w` the word as a number. -/
theorem decode0_eq_none {b c d : BitVec 4} {w : Nat} (hw : w = 256 * b.toNat + 16 * c.toNat + d.toNat)
    (h : d.toNat = 0 ∨ d.toNat = 1 ∨ (d.toNat = 2 ∧ 3 ≤ c.toNat) ∨ (d.toNat = 3 ∧ c.toNat ≠ 0 ∧ c.toNat ≠ 2) ∨
      (d.toNat = 8 ∧ w ≠ 8 ∧ w ≠ 24 ∧ w ≠ 40) ∨ (d.toNat = 9 ∧ w ≠ 9 ∧ w ≠ 25 ∧ c.toNat ≠ 2) ∨
      (d.toNat = 10 ∧ 3 ≤ c.toNat) ∨ (d.toNat = 11 ∧ w ≠ 11 ∧ w ≠ 27 ∧ w ≠ 43)) : decode0 b c d = none := by
  unfold decode0
  rcases h with h | h | ⟨h, hc⟩ | ⟨h, h0, h2⟩ | ⟨h, h0, h1, h2⟩ | ⟨h, h0, h1, h2⟩ | ⟨h, hc⟩ | ⟨h, h0, h1, h2⟩ <;>
    simp only [h]
  all_goals split <;> grind

/-- Those of `0100 ....`. -/
theorem decode4_eq_none {b c d : BitVec 4}
    (h : d.toNat = 12 ∨ d.toNat = 13 ∨ (d.toNat ≠ 15 ∧ 3 ≤ c.toNat) ∨ (d.toNat = 4 ∧ c.toNat = 1)) :
    decode4 b c d = none := by
  unfold decode4
  rcases h with h | h | ⟨h, hc⟩ | ⟨h, hc⟩
  · simp only [h]
  · simp only [h]
  · split
    all_goals grind
  · simp only [h, hc]

/-- Those of `1000 ....`. -/
theorem decode8_eq_none {b c d : BitVec 4}
    (h : b.toNat = 2 ∨ b.toNat = 3 ∨ b.toNat = 6 ∨ b.toNat = 7 ∨ b.toNat = 10 ∨ b.toNat = 12 ∨ b.toNat = 14) :
    decode8 b c d = none := by
  unfold decode8
  rcases h with h | h | h | h | h | h | h <;> simp only [h]

/-- No word of R108's table decodes. -/
theorem decode_of_undefinedWord {w : Half} (h : UndefinedWord w) : decode w = .error (.undefinedWord w) := by
  have hnone : decodeNibbles (w.extractLsb' 12 4) (w.extractLsb' 8 4) (w.extractLsb' 4 4) (w.extractLsb' 0 4) =
      none := by
    have hw : w.toNat = _ := half_toNat_nibbles w
    simp only [UndefinedWord, ne_eq, ← BitVec.toNat_inj, BitVec.reduceToNat] at h
    unfold decodeNibbles
    generalize (w.extractLsb' 12 4).toNat = a at h hw ⊢
    split at h
    · exact decode0_eq_none (by omega) h
    · simp only [decode2, h]
    · rcases h with h | h <;> simp only [decode3, h]
    · exact decode4_eq_none h
    · exact decode8_eq_none h
    · rfl
    · exact h.elim
  simp only [decode, hnone]

end Sys2Proof

namespace Sys2Proof.Machine

/-! ### What the next instruction is where no word is fetched -/

variable {s : State}

theorem aligned_word_of_even {a : Word} (h : a.getLsbD 0 = false) : aligned .word a = true := by
  rw [aligned_word_eq, h]
  rfl

/-- A fetch where nothing lies is the fault of U3. -/
theorem executeNext_of_absent (hpc : s.pc.getLsbD 0 = false) (h : s.mapped .word s.pc = false) :
    executeNext s = .fault .absentAddress := by
  have ha : aligned .word s.pc = true := aligned_word_of_even hpc
  simp [executeNext, fetch, ha, h]

/-- A fetch of a byte that may no longer be fetched is refused (R78, D16). -/
theorem executeNext_of_selfModified (hpc : s.pc.getLsbD 0 = false) (hm : s.mapped .word s.pc = true)
    (h : s.selfModified s.pc = true) : executeNext s = .refused .selfModifiedCode := by
  have ha : aligned .word s.pc = true := aligned_word_of_even hpc
  simp [executeNext, fetch, ha, hm, h]

/-- A word that does not decode is an illegal instruction, its bytes noted as text of this run (R109, R78). -/
theorem executeNext_of_undefined {w : Half} (hf : fetch s = .word w) (h : UndefinedWord w) :
    executeNext s = illegalInstruction s.markFetched := by
  simp only [executeNext, hf, decode_of_undefinedWord h]

/-- An undefined word outside a delay slot saves its own address (R321). -/
theorem illegalInstruction_of_noSlot (h : s.delay = none) :
    illegalInstruction s = exceptionEntry s vecGeneralIllegal s.pc none := by
  simp only [illegalInstruction, h]

/-- In a delay slot it saves the pending target (R322). -/
theorem illegalInstruction_of_slot {target : Word} (h : s.delay = some target) :
    illegalInstruction s = exceptionEntry s vecSlotIllegal target none := by
  simp only [illegalInstruction, h]

/-- Settles O6: the four ways a fetch gives no instruction, each by what the next instruction then is. -/
theorem fetchesThatRunNoInstruction : Obligations.FetchesThatRunNoInstruction := by
  intro s hready
  rw [hready.step_eq]
  refine ⟨fun hodd => executeNext_of_odd hodd, fun heven habsent => ?absent, fun heven h0 h1 hstored => ?stored,
    fun w hfetch hundefined => ?undefined⟩
  case absent =>
    refine executeNext_of_absent heven (Bool.eq_false_iff.2 fun hm => ?_)
    obtain ⟨h0, h1⟩ := State.mapped_word_iff.1 hm
    exact habsent.elim h0 h1
  case stored =>
    refine executeNext_of_selfModified heven (State.mapped_word_iff.2 ⟨h0, h1⟩) ?_
    rw [← Bool.not_eq_false, State.selfModified_eq_false_iff]
    exact fun ⟨hn0, hn1⟩ => hstored.elim hn0 hn1
  case undefined =>
    rw [executeNext_of_undefined (fetch_executing_eq_word.2 hfetch) hundefined]
    exact ⟨illegalInstruction_of_noSlot (s := (executing s).markFetched),
      fun target => illegalInstruction_of_slot (s := (executing s).markFetched)⟩

end Sys2Proof.Machine
end

section
/-! The access primitives MemRead and MemWrite (R66, R67): alignment by the address's own bits, what an access to nothing or
to ROM gives, what a store leaves and how it reads back, and the writes of another bus master. -/

namespace Sys2Proof.Machine

variable {s t : State} {sz : Size} {a b v : Word} {k : Nat}

/-! ### Alignment (R64) -/

/-- Longwords lie at addresses whose two lowest bits are 0 (R64). -/
theorem aligned_long_eq (a : Word) : aligned .long a = !(a.getLsbD 0 || a.getLsbD 1) := by
  have h0 : a.toNat.testBit 0 = decide (a.toNat % 2 = 1) := Nat.testBit_zero _
  have h1 : a.toNat.testBit 1 = decide (a.toNat / 2 % 2 = 1) := Nat.testBit_succ _ 0 ▸ Nat.testBit_zero _
  rw [aligned, BitVec.getLsbD, BitVec.getLsbD, h0, h1, Bool.eq_iff_iff]
  simp
  omega

/-- The misaligned accesses, by the bits of the address. -/
theorem aligned_eq_false_iff : aligned sz a = false ↔
    (sz = .word ∧ a.getLsbD 0 = true) ∨ (sz = .long ∧ (a.getLsbD 0 = true ∨ a.getLsbD 1 = true)) := by
  cases sz with
  | byte => simp [aligned]
  | word => simp [aligned_word_eq]
  | long => simp only [aligned_long_eq, Bool.not_eq_false', Bool.or_eq_true]; simp

/-- The other longwords of a longword's neighbourhood are aligned with it. -/
theorem aligned_long_add_four (a : Word) : aligned .long (a + 4) = aligned .long a := by
  simp only [aligned, BitVec.toNat_add, BitVec.reduceToNat]
  congr 1
  omega

/-- Both words of an aligned longword are aligned. -/
theorem aligned_word_of_long (h : aligned .long a = true) : aligned .word a = true ∧ aligned .word (a + 2) = true := by
  simp only [aligned, BitVec.toNat_add, BitVec.reduceToNat, beq_iff_eq] at h ⊢
  omega

/-! ### What lies at the addresses of an access (R82) -/

theorem State.mapped_eq_false_iff : s.mapped sz a = false ↔ ∃ b ∈ span sz a, s.kindAt b = .absent := by
  simp [State.mapped]

theorem State.mapped_iff : s.mapped sz a = true ↔ ∀ b ∈ span sz a, s.kindAt b ≠ .absent := by
  simp [State.mapped]

theorem State.writable_eq_false_iff : s.writable sz a = false ↔ ∃ b ∈ span sz a, s.kindAt b = .rom := by
  simp [State.writable]

/-- A part of an access that can be made can be made. -/
theorem State.mapped_of_span_subset {sz' : Size} (h : s.mapped sz a = true) (hb : span sz' b ⊆ span sz a) :
    s.mapped sz' b = true :=
  State.mapped_iff.2 fun c hc => State.mapped_iff.1 h c (hb hc)

theorem memRead_absent (ha : aligned sz a = true) (hm : s.mapped sz a = false) :
    memRead s k sz a = .fault .absentAddress := by
  simp [memRead, ha, hm]

theorem memWrite_absent (ha : aligned sz a = true) (hm : s.mapped sz a = false) :
    memWrite s sz a v = .fault .absentAddress := by
  simp [memWrite, ha, hm]

theorem memWrite_rom (ha : aligned sz a = true) (hm : s.mapped sz a = true) (hw : s.writable sz a = false) :
    memWrite s sz a v = .fault .romStore := by
  simp [memWrite, ha, hm, hw]

/-! ### MemRead and MemWrite -/

/-- Settles O17: alignment by the address's bits, and the value `readValue` puts together. -/
theorem memReadGivesTheBigEndianValue : Obligations.MemReadGivesTheBigEndianValue := by
  intro s k sz a
  dsimp only
  rw [← aligned_eq_false_iff, Bool.not_eq_false]
  refine ⟨memRead_eq_addressError.2, fun ha hm => memRead_eq_ok.2 ⟨ha, hm, ?value⟩, fun hd => if_neg hd,
    fun hd => if_pos hd⟩
  case value => cases sz <;> rfl

/-- Settles O18: the store's bytes hold, and its frame names their addresses only. -/
theorem memWriteStoresTheBytesAndNoOther : Obligations.MemWriteStoresTheBytesAndNoOther := by
  intro s sz a v
  dsimp only
  rw [← aligned_eq_false_iff, Bool.not_eq_false]
  refine ⟨memWrite_eq_addressError.2, fun ha hm hw => ⟨_, memWrite_eq_ok.2 ⟨ha, hm, hw, rfl⟩,
    s.store_holds sz a v, (Frame.refl s rfl).store (fun _ hb => hb) v, by simp, by simp, fun b hb => ?marked⟩⟩
  case marked =>
    rw [← bytesOf_addresses sz a v] at hb
    obtain ⟨p, hp, rfl⟩ := List.mem_map.1 hb
    exact (s.mem_storeBytes_storedAt _ _).2 (.inr ⟨p, hp, rfl⟩)

/-- Settles O19. -/
theorem absentAndRomAccessesFault : Obligations.AbsentAndRomAccessesFault := by
  intro s k sz a v ha
  refine ⟨fun habsent => ?absent, fun hthere hrom => ?rom⟩
  case absent =>
    have hm : s.mapped sz a = false := State.mapped_eq_false_iff.2 habsent
    exact ⟨memRead_absent ha hm, memWrite_absent ha hm⟩
  case rom => exact memWrite_rom ha (State.mapped_iff.2 hthere) (State.writable_eq_false_iff.2 hrom)

/-! ### Reading a stored longword back -/

/-- A longword and its halves, each put together from its bytes. -/
theorem long_eq_parts (v : Word) :
    v.extractLsb' 24 8 ++ v.extractLsb' 16 8 = v.extractLsb' 16 16 ∧
    v.extractLsb' 8 8 ++ v.extractLsb' 0 8 = v.extractLsb' 0 16 ∧
    v.extractLsb' 16 16 ++ v.extractLsb' 8 8 ++ v.extractLsb' 0 8 = v := by
  have join (i j m n : Nat) (h : j = i + m) :
      v.extractLsb' j n ++ v.extractLsb' i m = v.extractLsb' i (n + m) :=
    BitVec.extractLsb'_append_extractLsb'_eq_extractLsb' h
  refine ⟨join 16 24 8 8 rfl, join 0 8 8 8 rfl, ?_⟩
  rw [join 8 16 8 16 rfl, join 0 8 8 24 rfl, BitVec.extractLsb'_eq_self]

theorem add_two_add_one (a : Word) : a + 2 + 1 = a + 3 := BitVec.add_assoc a 2 1

/-- Where a longword lies, so do its words and bytes. -/
theorem State.mapped_parts (h : s.mapped .long a = true) :
    s.mapped .word a = true ∧ s.mapped .word (a + 2) = true ∧ ∀ b ∈ span .long a, s.mapped .byte b = true := by
  refine ⟨State.mapped_of_span_subset h ?_, State.mapped_of_span_subset h ?_, fun b hb =>
    State.mapped_of_span_subset h fun c hc => List.mem_singleton.1 hc ▸ hb⟩
  · exact (List.sublist_append_left [a, a + 1] [a + 2, a + 3]).subset
  · rw [span, add_two_add_one]
    exact (List.sublist_append_right [a, a + 1] [a + 2, a + 3]).subset

/-- What the bytes of a stored longword are put together to, in each width. -/
theorem Holds.readValue_parts (h : Holds t .long a v) (hd : ∀ b ∈ span .long a, t.kindAt b ≠ .device) :
    t.readValue k .long a = v ∧
    t.readValue k .word a = (v.extractLsb' 16 16).setWidth 32 ∧
    t.readValue k .word (a + 2) = (v.extractLsb' 0 16).setWidth 32 ∧
    t.readValue k .byte a = (v.extractLsb' 24 8).setWidth 32 ∧
    t.readValue k .byte (a + 1) = (v.extractLsb' 16 8).setWidth 32 ∧
    t.readValue k .byte (a + 2) = (v.extractLsb' 8 8).setWidth 32 ∧
    t.readValue k .byte (a + 3) = (v.extractLsb' 0 8).setWidth 32 := by
  obtain ⟨h0, h1, h2, h3⟩ := h
  simp only [span, List.forall_mem_cons] at hd
  obtain ⟨d0, d1, d2, d3, -⟩ := hd
  obtain ⟨hhigh, hlow, hlong⟩ := long_eq_parts v
  simp only [State.readValue, add_two_add_one, h0 d0 k, h1 d1 k, h2 d2 k, h3 d3 k, hhigh, hlow, hlong, and_self]

/-- Settles O20: every read is made of the four bytes that the store put there. -/
theorem storedLongwordReadsBackInEveryWidth : Obligations.StoredLongwordReadsBackInEveryWidth := by
  intro s t k a v hwrite hmemory
  obtain ⟨ha, hm, -, rfl⟩ := memWrite_eq_ok.1 hwrite
  obtain ⟨ha0, ha2⟩ := aligned_word_of_long ha
  rw [← s.storeBytes_mapped (bytesOf .long a v)] at hm
  obtain ⟨m0, m2, hbyte⟩ := State.mapped_parts hm
  simp only [span, List.forall_mem_cons] at hbyte
  obtain ⟨b0, b1, b2, b3, -⟩ := hbyte
  obtain ⟨rl, r0, r2, r8, r9, r10, r11⟩ :=
    (s.store_holds .long a v).readValue_parts (k := k) fun b hb => by simpa using hmemory b hb
  exact ⟨memRead_eq_ok.2 ⟨ha, hm, rl.symm⟩, memRead_eq_ok.2 ⟨ha0, m0, r0.symm⟩, memRead_eq_ok.2 ⟨ha2, m2, r2.symm⟩,
    memRead_eq_ok.2 ⟨rfl, b0, r8.symm⟩, memRead_eq_ok.2 ⟨rfl, b1, r9.symm⟩, memRead_eq_ok.2 ⟨rfl, b2, r10.symm⟩,
    memRead_eq_ok.2 ⟨rfl, b3, r11.symm⟩⟩

/-! ### The released bus (R77, R353) -/

/-- Another master's writes change no byte at any other address. -/
theorem State.busWrites_byteAt_of_notMem (s : State) {ws : List (Word × Byte)} (h : a ∉ ws.map Prod.fst) (k : Nat) :
    (s.busWrites ws).byteAt k a = s.byteAt k a := by
  by_cases hd : s.kindAt a = .device
  · exact (if_pos hd).trans (if_pos hd).symm
  · exact ((if_neg hd).trans (Memory.lookup_putAll_of_notMem s.mem ws a h)).trans (if_neg hd).symm

/-- Of its writes to one address the last stays, where no device answers. -/
theorem State.busWrites_byteAt_last (s : State) {ws₁ ws₂ : List (Word × Byte)} {x : Byte}
    (h : a ∉ ws₂.map Prod.fst) (hd : s.kindAt a ≠ .device) (k : Nat) :
    (s.busWrites (ws₁ ++ (a, x) :: ws₂)).byteAt k a = x :=
  (if_neg hd).trans (Memory.lookup_putAll_last s.mem ws₁ a x ws₂ h)

/-- Another master's writes, to addresses the frame names. -/
theorem Frame.busWrites {w : Writes} {ws : List (Word × Byte)} (h : Frame w s t)
    (hws : ∀ p ∈ ws, p.1 ∈ w.stored) : Frame w s (t.busWrites ws) :=
  { h with
    memory := fun k a ha => by
      have hn : a ∉ ws.map Prod.fst := fun hmem => by
        obtain ⟨p, hp, rfl⟩ := List.mem_map.1 hmem
        exact ha (hws p hp)
      rw [t.busWrites_byteAt_of_notMem hn]
      exact h.memory k a ha
    marked := fun a ha => by
      obtain ha | ⟨-, p, hp, rfl⟩ := (t.mem_busWrites_storedAt ws a).1 ha
      · exact h.marked a ha
      · exact .inr ⟨p.1, hws p hp, rfl⟩
    stillMarked := fun a ha => (t.mem_busWrites_storedAt ws a).2 (.inl (h.stillMarked a ha)) }

theorem step_of_bus {ws : List (Word × Byte)} (hr : s.boundary.reset = none) (hb : s.boundary.bus = some ws) :
    step s = .next (s.begin.releaseBus ws) := by
  simp only [step, hr, hb]

/-- Settles O12: the step is `releaseBus`, whose writes are another master's and nothing else. -/
theorem busReleaseChangesMemoryOnly : Obligations.BusReleaseChangesMemoryOnly := by
  intro s ws hr hb
  refine ⟨_, step_of_bus hr hb, rfl, rfl, rfl, s.mem_busWrites_storedAt ws, rfl, ?frame, ?last⟩
  case frame => exact (Frame.refl _ rfl).busWrites fun p hp => List.mem_map_of_mem hp
  case last =>
    rintro ws₁ a v ws₂ rfl hlast hmemory k
    exact s.begin.busWrites_byteAt_last hlast hmemory k

end Sys2Proof.Machine
end

section
/-! The instructions that read a byte, change it and write it back (R84, R224): AND.B, OR.B and XOR.B in two accesses, TAS.B
with the bus held between them (R73). -/

namespace Sys2Proof

/-- The code of format i decodes by its nibbles. -/
theorem decode_codeI {op v : BitVec 8} {i : BitVec 8 → Instr}
    (h : ∀ c d, decodeNibbles (op.extractLsb' 4 4) (op.extractLsb' 0 4) c d = some (i (c ++ d))) :
    decode (codeI op v) = .ok (i v) := by
  rw [codeI, nibbles_of_bytes, decode_nibbles, h, byte_nibbles]

end Sys2Proof

namespace Sys2Proof.Machine

variable {i : Instr} {w : Half} {s : State} {a : Word}

/-- The low byte of a byte read. -/
theorem lowByte_setWidth (b : Byte) : (b.setWidth 32).extractLsb' 0 8 = b := by
  have hb : b.toNat < 2 ^ 8 := b.isLt
  rw [← BitVec.toNat_inj, BitVec.extractLsb'_toNat, BitVec.toNat_setWidth, Nat.shiftRight_zero]
  omega

/-- A byte read is zero where its longword is. -/
theorem setWidth_eq_zero_iff (b : Byte) : b.setWidth 32 = (0 : Word) ↔ b = 0 := by
  rw [← BitVec.toNat_inj, ← BitVec.toNat_inj, BitVec.toNat_setWidth_of_le (by decide)]
  rfl

/-! ### AND.B, OR.B and XOR.B -/

theorem modifyByte_ok {f : Word → Word} (hm : s.mapped .byte (eaGbrIndexed s) = true)
    (hw : s.writable .byte (eaGbrIndexed s) = true) :
    modifyByte s f = .next (s.arbitrate.arbitrate.storeBytes (bytesOf .byte (eaGbrIndexed s)
      (f ((s.arbitrate.byteAt 0 (eaGbrIndexed s)).setWidth 32)))).advance :=
  (readThen_ok rfl hm).trans (writeThen_ok rfl hm hw)

theorem modifyByte_absent {f : Word → Word} (hm : s.mapped .byte (eaGbrIndexed s) = false) :
    modifyByte s f = .fault .absentAddress := readThen_absent rfl hm

theorem modifyByte_rom {f : Word → Word} (hm : s.mapped .byte (eaGbrIndexed s) = true)
    (hw : s.writable .byte (eaGbrIndexed s) = false) : modifyByte s f = .fault .romStore :=
  (readThen_ok rfl hm).trans (writeThen_rom rfl hm hw)

/-- An instruction that is `modifyByte f` changes the byte as `g` does, the low byte of `f`. -/
theorem modifiesByte_of_modifyByte {f : Word → Word} {g : Byte → Byte} (hdecode : decode w = .ok i)
    (hexec : exec i s = modifyByte s f) (hfg : ∀ b : Byte, (f (b.setWidth 32)).extractLsb' 0 8 = g b) :
    ModifiesByte w i s (eaGbrIndexed s) g [] 2 fun _ => True := by
  refine ⟨fun hm hw => ⟨hdecode, _, hexec.trans (modifyByte_ok hm hw), ?next, ?frame, fun hd k => ?byte, trivial⟩,
    fun _ hm => hexec.trans (modifyByte_absent hm), fun _ hm hw => hexec.trans (modifyByte_rom hm hw)⟩
  case next => exact sequential_advance (by simp)
  case frame => exact ((Frame.two s rfl).store (fun _ hb => hb) _).advance
  case byte =>
    rw [← hfg]
    exact State.store_holds s.arbitrate.arbitrate .byte _ _ (by simpa using hd) k

/-- Settles O41: each of the three is `modifyByte`, with its operation on the low byte. -/
theorem memoryLogicModifiesOneByte : Obligations.MemoryLogicModifiesOneByte := by
  intro imm s
  refine ⟨modifiesByte_of_modifyByte (f := (· &&& immUnsigned imm)) (decode_codeI fun _ _ => rfl) rfl fun b => ?and,
    modifiesByte_of_modifyByte (f := (· ||| immUnsigned imm)) (decode_codeI fun _ _ => rfl) rfl fun b => ?or,
    modifiesByte_of_modifyByte (f := (· ^^^ immUnsigned imm)) (decode_codeI fun _ _ => rfl) rfl fun b => ?xor⟩
  case and => rw [immUnsigned, BitVec.extractLsb'_and, lowByte_setWidth, lowByte_setWidth]
  case or => rw [immUnsigned, BitVec.extractLsb'_or, lowByte_setWidth, lowByte_setWidth]
  case xor => rw [immUnsigned, BitVec.extractLsb'_xor, lowByte_setWidth, lowByte_setWidth]

/-! ### TAS.B -/

theorem execTasB_ok {n : Reg} (hm : s.mapped .byte (s.reg n) = true) (hw : s.writable .byte (s.reg n) = true) :
    execTasB n s = .next ((s.arbitrate.storeBytes (bytesOf .byte (s.reg n)
      ((s.arbitrate.byteAt 0 (s.reg n)).setWidth 32 ||| 0x80))).setT
        ((s.arbitrate.byteAt 0 (s.reg n)).setWidth 32 == (0 : Word))).advance :=
  (readThen_ok rfl hm).trans (writeHeld_ok rfl hm hw)

theorem execTasB_absent {n : Reg} (hm : s.mapped .byte (s.reg n) = false) :
    execTasB n s = .fault .absentAddress := readThen_absent rfl hm

theorem execTasB_rom {n : Reg} (hm : s.mapped .byte (s.reg n) = true) (hw : s.writable .byte (s.reg n) = false) :
    execTasB n s = .fault .romStore :=
  (readThen_ok rfl hm).trans (writeHeld_rom rfl hm hw)

/-- Settles O43: one access may be preceded by other masters' writes, the read; T is the zero test of what it gave. -/
theorem tasSetsBitSevenAndTestsForZero : Obligations.TasSetsBitSevenAndTestsForZero := by
  intro n s
  refine ⟨fun hm hw => ⟨decode_codeN rfl, _, execTasB_ok hm hw, ?next, ?frame, fun hd k => ?byte, ?flag⟩,
    fun _ hm => execTasB_absent hm, fun _ hm hw => execTasB_rom hm hw⟩
  case next => exact sequential_advance (by simp)
  case frame =>
    exact (((Frame.one s rfl).store (fun _ hb => hb) _).setT (List.mem_singleton.2 rfl) _).advance
  case byte =>
    refine (State.store_holds s.arbitrate .byte _ _ (by simpa using hd) k).trans ?_
    rw [BitVec.extractLsb'_or, lowByte_setWidth]
    rfl
  case flag =>
    dsimp only
    rw [State.advance_t, State.setT_t, beq_iff_eq]
    exact setWidth_eq_zero_iff _

end Sys2Proof.Machine
end

section
/-! The address errors of MAC.L, MAC.W and RTE (R65, R295, R323): what their operands' reads give, and the state that each
leaves behind. -/

namespace Sys2Proof.Machine

variable {i : Instr} {w : Writes} {s t : State} {sz : Size} {m n : Reg}

/-! ### Base registers (U2) -/

/-- A base register the frame names may have been updated or not. -/
theorem Frame.baseAfterError (h : Frame w s t) {r : Reg} (hr : r ∈ w.regs) (k : Nat) (v : Word) :
    Frame w s (t.baseAfterError k r v) := by
  obtain e | e := t.baseAfterError_cases k r v <;> rw [e]
  · exact h
  · exact h.setReg hr v

/-- What the base register itself then holds. -/
theorem State.baseAfterError_reg_self (s : State) (k : Nat) (r : Reg) (v : Word) :
    (s.baseAfterError k r v).reg r = s.reg r ∨ (s.baseAfterError k r v).reg r = v := by
  obtain e | e := s.baseAfterError_cases k r v <;> rw [e]
  · exact .inl rfl
  · exact .inr (by simp)

/-! ### The operands of MAC -/

/-- What MAC leaves before the address error of an operand: Rn and Rm, each old or advanced, in the order of the reads. -/
def State.macError (s : State) (sz : Size) (m n : Reg) : State :=
  let u := s.baseAfterError 0 n (incremented s sz n)
  u.baseAfterError 1 m (incremented u sz m)

/-- The address of MAC's second operand, Rm after Rn has advanced (D20). -/
def State.macSecond (s : State) (sz : Size) (m n : Reg) : Word :=
  if m = n then s.reg n + sz.bytes else s.reg m

/-- The base registers after the address error of an operand of MAC. -/
def MacBases (s : State) (sz : Size) (m n : Reg) (u : State) : Prop :=
  if m = n then u.reg n = s.reg n ∨ u.reg n = s.reg n + sz.bytes ∨ u.reg n = s.reg n + 2 * sz.bytes
  else (u.reg n = s.reg n ∨ u.reg n = s.reg n + sz.bytes) ∧ (u.reg m = s.reg m ∨ u.reg m = s.reg m + sz.bytes)

theorem State.macError_bases (s : State) (sz : Size) (m n : Reg) : MacBases s sz m n (s.macError sz m n) := by
  have hn := s.baseAfterError_reg_self 0 n (incremented s sz n)
  have hother := s.baseAfterError_reg 0 n m (incremented s sz n)
  unfold MacBases State.macError
  generalize s.baseAfterError 0 n (incremented s sz n) = u at hn hother
  have hm := u.baseAfterError_reg_self 1 m (incremented u sz m)
  unfold incremented at hn hm ⊢
  split
  · next h =>
    subst h
    have htwo : s.reg m + 2 * sz.bytes = s.reg m + sz.bytes + sz.bytes := by rw [two_mul, BitVec.add_assoc]
    rw [htwo]
    grind
  · next h =>
    rw [u.baseAfterError_reg 1 m n _ (Ne.symm h), ← hother h]
    exact ⟨hn, hm⟩

/-- Beside the base registers nothing has changed but what other masters wrote before the `k` reads made. -/
theorem State.macError_left (s : State) (sz : Size) (m n : Reg) (k : Nat) :
    LeftByAddressError [m, n] [] k s ((s.arbitrated k).macError sz m n) := by
  have hframe : Frame { regs := [m, n], srBits := [], accesses := k } s (s.arbitrated k) := Frame.arbitrated _ s
  refine ⟨(hframe.baseAfterError ?_ 0 _).baseAfterError ?_ 1 _, ?_, ?_⟩
  · exact List.mem_cons_of_mem _ (List.mem_singleton.2 rfl)
  · exact List.mem_cons_self
  · simp only [State.macError, State.baseAfterError_pc]
    rw [s.arbitrated_eq k]
  · simp only [State.macError, State.baseAfterError_delay]
    rw [s.arbitrated_eq k]

/-- MAC's two reads, with what an address error of either leaves. -/
theorem macOperands_eq (s : State) (sz : Size) (m n : Reg) (f : State → Word → Word → Result) :
    macOperands s sz m n f = readThen s 0 sz (s.reg n) (s.macError sz m n) fun t a =>
      readThen (t.setReg n (t.reg n + sz.bytes)) 1 sz ((t.setReg n (t.reg n + sz.bytes)).reg m) (t.macError sz m n)
        fun u b => f (u.setReg m (incremented u sz m)) a b := rfl

/-- After a readable first operand MAC is the read of the second. -/
theorem macOperands_of_first {f : State → Word → Word → Result} (ha : aligned sz (s.reg n) = true)
    (hm : s.mapped sz (s.reg n) = true) :
    macOperands s sz m n f =
      readThen (s.arbitrate.setReg n (s.reg n + sz.bytes)) 1 sz (s.macSecond sz m n) (s.arbitrate.macError sz m n)
        fun u b => f (u.setReg m (incremented u sz m)) (s.arbitrate.readValue 0 sz (s.reg n)) b := by
  have haddr : (s.arbitrate.setReg n (s.reg n + sz.bytes)).reg m = s.macSecond sz m n := by simp [State.macSecond]
  rw [macOperands_eq, readThen_ok ha hm, State.arbitrate_reg, haddr]

/-- `i` raises the address error of an operand of MAC after `k` reads. -/
def MacRaises (i : Instr) (s : State) (sz : Size) (m n : Reg) (k : Nat) : Prop :=
  ∃ u, LeftByAddressError [m, n] [] k s u ∧ MacBases s sz m n u ∧ exec i s = addressErrorEntry u

/-- Misaligned and absent operands of an instruction that begins with MAC's two reads. -/
theorem operandErrors_of_macOperands {f : State → Word → Word → Result}
    (hexec : exec i s = macOperands s sz m n f) :
    (aligned sz (s.reg n) = false → MacRaises i s sz m n 0) ∧
    StopsWhereAbsent i s sz (s.reg n) ∧
    (aligned sz (s.reg n) = true → s.mapped sz (s.reg n) = true →
      (aligned sz (s.macSecond sz m n) = false → MacRaises i s sz m n 1) ∧
        StopsWhereAbsent i s sz (s.macSecond sz m n)) := by
  refine ⟨fun ha => ⟨_, s.macError_left sz m n 0, s.macError_bases sz m n, ?first⟩, fun ha hm => ?absent,
    fun ha hm => ⟨fun ha' => ⟨_, s.macError_left sz m n 1, s.arbitrate.macError_bases sz m n, ?second⟩,
      fun ha' hm' => ?absentSecond⟩⟩
  case first => rw [hexec, macOperands_eq]; exact readThen_misaligned ha
  case absent => rw [hexec, macOperands_eq]; exact readThen_absent ha hm
  case second => rw [hexec, macOperands_of_first ha hm]; exact readThen_misaligned ha'
  case absentSecond => rw [hexec, macOperands_of_first ha hm]; exact readThen_absent ha' (by simpa using hm')

/-- A running multiplier refuses nothing (R384). -/
theorem multiplierGuard_of_running {r : Result} (h : s.platform.stopMult = false) : multiplierGuard s r = r := by
  simp [multiplierGuard, h]

/-! ### The pops of RTE -/

/-- RTE's two pops, with what an address error of either leaves. -/
theorem execRte_eq (hs : s.delay = none) :
    exec .rte s = readThen s 0 .long (s.reg 15) (s.baseAfterError 0 15 (s.reg 15 + 8)) fun t savedPc =>
      readThen t 1 .long (s.reg 15 + 4) (t.baseAfterError 0 15 (s.reg 15 + 8)) fun t savedSr =>
        .next (((t.setReg 15 (s.reg 15 + 8)).setSr savedSr).branchDelayed savedPc) := by
  change notInSlot s (returnFromException s) = _
  simp only [notInSlot, hs]
  rfl

/-- Settles O39: MAC.L and MAC.W by the rule of their two reads, RTE by its two pops. -/
theorem misalignedMacAndRteTakeTheAddressError : Obligations.MisalignedMacAndRteTakeTheAddressError := by
  intro m n s
  refine ⟨fun hrun => ⟨operandErrors_of_macOperands (multiplierGuard_of_running hrun),
    operandErrors_of_macOperands (multiplierGuard_of_running hrun)⟩, fun hs => ?rte⟩
  case rte =>
    refine ⟨fun ha => ⟨_, s.baseAfterError_cases 0 15 _, ?misaligned⟩, fun ha hm => ?first,
      fun hm ha' hm' => ?second⟩
    case misaligned => rw [execRte_eq hs, readThen_misaligned ha]
    case first => rw [execRte_eq hs, readThen_absent ha hm]
    case second =>
      have ha : aligned .long (s.reg 15) = true := (aligned_long_add_four _).symm.trans ha'
      rw [execRte_eq hs, readThen_ok ha hm]
      exact readThen_absent ha' hm'

end Sys2Proof.Machine
end

section
/-! The encoder and the decoder are inverse (R100 to R107), and a word that does not decode is in the table of R108. -/

namespace Sys2Proof

variable {a b c d : BitVec 4} {i : Instr}

/-! ### What the code of each format decodes to (R102) -/

/-- The code of format nm or nmd decodes by its nibbles. -/
theorem decode_codeNM {op last : BitVec 4} {n m : Reg} (h : decodeNibbles op (field n) (field m) last = some i) :
    decode (codeNM op n m last) = .ok i := by
  rw [codeNM, decode_nibbles, h]

/-- The code of format md or nd4 decodes by its nibbles. -/
theorem decode_codeRD {op : BitVec 8} {r : Reg} {disp : BitVec 4}
    (h : decodeNibbles (op.extractLsb' 4 4) (op.extractLsb' 0 4) (field r) disp = some i) :
    decode (codeRD op r disp) = .ok i := by
  rw [codeRD, nibbles_of_byte_first, decode_nibbles, h]

/-- The code of format ni or nd8 decodes by its nibbles. -/
theorem decode_codeNI {op : BitVec 4} {n : Reg} {v : BitVec 8} {i : BitVec 8 → Reg → Instr}
    (h : ∀ c d, decodeNibbles op (field n) c d = some (i (c ++ d) n)) : decode (codeNI op n v) = .ok (i v n) := by
  rw [codeNI, nibbles_of_byte, decode_nibbles, h, byte_nibbles]

/-- The code of format d12 decodes by its nibbles. -/
theorem decode_codeD12 {op : BitVec 4} {v : BitVec 12} {i : BitVec 12 → Instr}
    (h : ∀ b c d, decodeNibbles op b c d = some (i (b ++ c ++ d))) : decode (codeD12 op v) = .ok (i v) := by
  rw [codeD12, nibbles_of_disp12, decode_nibbles, h, disp12_nibbles]

/-- Settles O1, format by format (R102): the decoder finds the row by the fixed bits and takes the fields back out. -/
theorem encodedInstructionDecodesToItself : Obligations.EncodedInstructionDecodesToItself := by
  intro i
  cases i with
  -- format 0
  | div0u | rts | clrt | clrmac | nop | rte | sett | sleep => rfl
  -- formats n and m
  | movt | cmpPz | cmpPl | dt | tasB | rotl | rotr | rotcl | rotcr | shal | shar | shll | shlr | shll2 | shlr2 | shll8
  | shlr8 | shll16 | shlr16 | braf | bsrf | jmp | jsr | ldcSr | ldcGbr | ldcVbr | ldcLSr | ldcLGbr | ldcLVbr | ldsMach
  | ldsMacl | ldsPr | ldsLMach | ldsLMacl | ldsLPr | stcSr | stcGbr | stcVbr | stcLSr | stcLGbr | stcLVbr | stsMach
  | stsMacl | stsPr | stsLMach | stsLMacl | stsLPr => exact decode_codeN rfl
  -- formats nm and nmd
  | mov | movBStore | movWStore | movLStore | movBLoad | movWLoad | movLLoad | movBStoreDec | movWStoreDec
  | movLStoreDec | movBLoadInc | movWLoadInc | movLLoadInc | movLStoreDisp | movLLoadDisp | movBStoreIdx | movWStoreIdx
  | movLStoreIdx | movBLoadIdx | movWLoadIdx | movLLoadIdx | swapB | swapW | xtrct | addR | addc | addv | cmpEq | cmpHs
  | cmpGe | cmpHi | cmpGt | cmpStr | div1 | div0s | dmulsL | dmuluL | extsB | extsW | extuB | extuW | macL | macW | mulL
  | mulsW | muluW | neg | negc | subR | subc | subv | andR | notR | orR | tstR | xorR => exact decode_codeNM rfl
  -- formats md and nd4
  | movBStoreDisp | movWStoreDisp | movBLoadDisp | movWLoadDisp => exact decode_codeRD rfl
  -- formats i and d
  | movBStoreGbr | movWStoreGbr | movLStoreGbr | movBLoadGbr | movWLoadGbr | movLLoadGbr | mova | cmpEqImm | andImm
  | andB | orImm | orB | tstImm | tstB | xorImm | xorB | bf | bfS | bt | btS | trapa =>
    exact decode_codeI fun _ _ => rfl
  -- formats ni and nd8
  | movImm | movWPc | movLPc | addImm => exact decode_codeNI fun _ _ => rfl
  -- format d12
  | bra | bsr => exact decode_codeD12 fun _ _ _ => rfl

/-! ### A word is the code of the row that it matches (R107) -/

/-- The opcode map is right about `w` in answering a row: its code is `w`, or there is none and R108 lists `w`. -/
inductive RowOf (w : Half) : Option Instr → Prop
  | row {i : Instr} (h : encode i = w) : RowOf w (some i)
  | listed (h : UndefinedWord w) : RowOf w none

/-- A field that the decoder finds equal to a number is the nibble of that number. -/
theorem nibble_eq_of_toNat {f : BitVec 4} {k : Nat} (h : f.toNat = k) : f = BitVec.ofNat 4 k := by
  rw [← h, BitVec.ofNat_toNat, BitVec.setWidth_eq]

/-- A word of two bytes of two nibbles each. -/
theorem append_bytes_of_nibbles (a b c d : BitVec 4) : ((a ++ b) ++ (c ++ d) : Half) = a ++ b ++ c ++ d :=
  (BitVec.append_assoc (x₁ := a ++ b) (x₂ := c) (x₃ := d)).symm

/-- A word of a nibble and a displacement of three. -/
theorem append_disp12_of_nibbles (a b c d : BitVec 4) : (a ++ (b ++ c ++ d) : Half) = a ++ b ++ c ++ d :=
  calc (a ++ (b ++ c ++ d) : Half)
    _ = a ++ (b ++ c) ++ d := (BitVec.append_assoc (x₁ := a) (x₂ := b ++ c) (x₃ := d)).symm
    _ = a ++ b ++ c ++ d := congrArg (· ++ d) (BitVec.append_assoc (x₁ := a) (x₂ := b) (x₃ := c)).symm

section Formats

variable {j k l : Nat}

/-- Rows of formats nm and nmd: the first and the last nibble tell them. -/
theorem rowOf_nm (hd : d.toNat = k) (h : encode i = codeNM a (reg b) (reg c) (BitVec.ofNat 4 k)) :
    RowOf (a ++ b ++ c ++ d) (some i) := by
  rw [nibble_eq_of_toNat hd]
  exact .row h

/-- Rows of formats n and m: the first and the last two nibbles tell them. -/
theorem rowOf_n {last : BitVec 8} (hc : c.toNat = j) (hd : d.toNat = k) (h : encode i = codeN a (reg b) last)
    (hlast : last = BitVec.ofNat 4 j ++ BitVec.ofNat 4 k) : RowOf (a ++ b ++ c ++ d) (some i) := by
  rw [nibble_eq_of_toNat hc, nibble_eq_of_toNat hd, ← append_bytes_of_nibbles, ← hlast]
  exact .row h

/-- Rows of format 0: all four nibbles tell them. -/
theorem rowOf_fixed (hb : b.toNat = l) (hc : c.toNat = j) (hd : d.toNat = k)
    (h : encode i = a ++ BitVec.ofNat 4 l ++ BitVec.ofNat 4 j ++ BitVec.ofNat 4 k) :
    RowOf (a ++ b ++ c ++ d) (some i) := by
  rw [nibble_eq_of_toNat hb, nibble_eq_of_toNat hc, nibble_eq_of_toNat hd]
  exact .row h

/-- Rows of formats md and nd4: the first two nibbles tell them. -/
theorem rowOf_rd {op : BitVec 8} (hb : b.toNat = k) (h : encode i = codeRD op (reg c) d)
    (hop : op = a ++ BitVec.ofNat 4 k) : RowOf (a ++ b ++ c ++ d) (some i) := by
  rw [nibble_eq_of_toNat hb, ← hop]
  exact .row h

/-- Rows of formats i and d: the first two nibbles tell them. -/
theorem rowOf_i {op : BitVec 8} (hb : b.toNat = k) (h : encode i = codeI op (c ++ d))
    (hop : op = a ++ BitVec.ofNat 4 k) : RowOf (a ++ b ++ c ++ d) (some i) := by
  rw [nibble_eq_of_toNat hb, ← append_bytes_of_nibbles, ← hop]
  exact .row h

/-- Rows of formats ni and nd8: the first nibble tells them. -/
theorem rowOf_ni (h : encode i = codeNI a (reg b) (c ++ d)) : RowOf (a ++ b ++ c ++ d) (some i) := by
  rw [← append_bytes_of_nibbles]
  exact .row h

/-- Rows of format d12: the first nibble tells them. -/
theorem rowOf_d12 (h : encode i = codeD12 a (b ++ c ++ d)) : RowOf (a ++ b ++ c ++ d) (some i) := by
  rw [← append_disp12_of_nibbles]
  exact .row h

end Formats

/-- The cells of `0000 ....` that R108 lists, by the nibbles. -/
theorem undefinedWord_of_cell0 (h : d.toNat = 0 ∨ d.toNat = 1 ∨ (d.toNat = 2 ∧ 3 ≤ c.toNat) ∨
    (d.toNat = 3 ∧ c.toNat ≠ 0 ∧ c.toNat ≠ 2) ∨ ((d.toNat = 8 ∨ d.toNat = 11) ∧ (b.toNat ≠ 0 ∨ 3 ≤ c.toNat)) ∨
    (d.toNat = 9 ∧ c.toNat ≠ 2 ∧ (b.toNat ≠ 0 ∨ 3 ≤ c.toNat)) ∨ (d.toNat = 10 ∧ 3 ≤ c.toNat)) :
    UndefinedWord (0b0000#4 ++ b ++ c ++ d) := by
  have hw := half_toNat_nibbles (0b0000#4 ++ b ++ c ++ d)
  simp only [half_nibbles, BitVec.reduceToNat] at hw
  simp only [UndefinedWord, half_nibbles, ne_eq, ← BitVec.toNat_inj, BitVec.reduceToNat]
  have hb : b.toNat < 16 := b.isLt
  have hc : c.toNat < 16 := c.isLt
  grind

/-- The cells of `0100 ....` that R108 lists. -/
theorem undefinedWord_of_cell4
    (h : d.toNat = 12 ∨ d.toNat = 13 ∨ (d.toNat ≠ 15 ∧ 3 ≤ c.toNat) ∨ (d.toNat = 4 ∧ c.toNat = 1)) :
    UndefinedWord (0b0100#4 ++ b ++ c ++ d) := by
  simpa only [UndefinedWord, half_nibbles, BitVec.reduceToNat] using h

/-! ### The blocks of the opcode map (R106)

A block's cases are its cells in the order of the map. A cell outside R108's table that holds no row cannot occur. -/

theorem decode0_rowOf (b c d : BitVec 4) : RowOf (0b0000#4 ++ b ++ c ++ d) (decode0 b c d) := by
  have hbound : d.toNat < 16 := d.isLt
  fun_cases decode0 b c d
  -- format 0: CLRT, SETT, CLRMAC, NOP, DIV0U, RTS, SLEEP, RTE
  case case12 | case14 | case16 | case19 | case21 | case29 | case31 | case33 =>
    exact rowOf_fixed ‹b.toNat = _› ‹c.toNat = _› ‹d.toNat = _› (by rfl)
  -- formats n and m: STC, BSRF, BRAF, MOVT, STS
  case case1 | case2 | case3 | case5 | case6 | case23 | case25 | case26 | case27 =>
    exact rowOf_n ‹c.toNat = _› ‹d.toNat = _› (by rfl) (by decide)
  -- format nm: the indexed moves, MUL.L and MAC.L
  case case8 | case9 | case10 | case11 | case36 | case37 | case38 | case39 => exact rowOf_nm ‹d.toNat = _› (by rfl)
  -- no row
  all_goals exact .listed (undefinedWord_of_cell0 (by grind))

theorem decode2_rowOf (b c d : BitVec 4) : RowOf (0b0010#4 ++ b ++ c ++ d) (decode2 b c d) := by
  have hbound : d.toNat < 16 := d.isLt
  fun_cases decode2 b c d
  -- no row
  case case16 => exact .listed (by simp only [UndefinedWord, half_nibbles, BitVec.reduceToNat]; grind)
  all_goals exact rowOf_nm ‹d.toNat = _› (by rfl)

theorem decode3_rowOf (b c d : BitVec 4) : RowOf (0b0011#4 ++ b ++ c ++ d) (decode3 b c d) := by
  have hbound : d.toNat < 16 := d.isLt
  fun_cases decode3 b c d
  -- no row
  case case15 => exact .listed (by simp only [UndefinedWord, half_nibbles, BitVec.reduceToNat]; grind)
  all_goals exact rowOf_nm ‹d.toNat = _› (by rfl)

theorem decode4_rowOf (b c d : BitVec 4) : RowOf (0b0100#4 ++ b ++ c ++ d) (decode4 b c d) := by
  have hbound : d.toNat < 16 := d.isLt
  fun_cases decode4 b c d
  -- no row
  case case4 | case8 | case12 | case16 | case19 | case23 | case27 | case31 | case35 | case39 | case43 | case47 | case51
      | case53 =>
    exact .listed (undefinedWord_of_cell4 (by grind))
  -- MAC.W, of format nm
  case case52 => exact rowOf_nm ‹d.toNat = _› (by rfl)
  -- formats n and m
  all_goals exact rowOf_n ‹c.toNat = _› ‹d.toNat = _› (by rfl) (by decide)

theorem decode6_rowOf (b c d : BitVec 4) : RowOf (0b0110#4 ++ b ++ c ++ d) (decode6 b c d) := by
  have hbound : d.toNat < 16 := d.isLt
  fun_cases decode6 b c d
  case case17 => grind
  all_goals exact rowOf_nm ‹d.toNat = _› (by rfl)

theorem decode8_rowOf (b c d : BitVec 4) : RowOf (0b1000#4 ++ b ++ c ++ d) (decode8 b c d) := by
  have hbound : b.toNat < 16 := b.isLt
  fun_cases decode8 b c d
  -- formats md and nd4
  case case1 | case2 | case3 | case4 => exact rowOf_rd ‹b.toNat = _› (by rfl) (by decide)
  -- no row
  case case10 => exact .listed (by simp only [UndefinedWord, half_nibbles, BitVec.reduceToNat]; grind)
  -- formats i and d
  all_goals exact rowOf_i ‹b.toNat = _› (by rfl) (by decide)

theorem decodeC_rowOf (b c d : BitVec 4) : RowOf (0b1100#4 ++ b ++ c ++ d) (decodeC b c d) := by
  have hbound : b.toNat < 16 := b.isLt
  fun_cases decodeC b c d
  case case17 => grind
  all_goals exact rowOf_i ‹b.toNat = _› (by rfl) (by decide)

/-- The opcode map, block by block: a word's answer is its row, or none where R108 lists the word. -/
theorem decodeNibbles_rowOf (a b c d : BitVec 4) : RowOf (a ++ b ++ c ++ d) (decodeNibbles a b c d) := by
  have hbound : a.toNat < 16 := a.isLt
  fun_cases decodeNibbles a b c d
  case case16 =>
    have ha : a.toNat = 15 := by grind
    refine .listed ?_
    simp only [UndefinedWord, half_nibbles, ha]
  all_goals rw [nibble_eq_of_toNat ‹a.toNat = _›]
  case case1 => exact decode0_rowOf b c d
  case case2 | case6 => exact .row rfl
  case case3 => exact decode2_rowOf b c d
  case case4 => exact decode3_rowOf b c d
  case case5 => exact decode4_rowOf b c d
  case case7 => exact decode6_rowOf b c d
  case case8 | case10 | case14 | case15 => exact rowOf_ni rfl
  case case9 => exact decode8_rowOf b c d
  case case11 | case12 => exact rowOf_d12 rfl
  case case13 => exact decodeC_rowOf b c d

/-- The two answers of the decoder: the instruction whose code the word is, or its rejection as listed by R108. -/
theorem decode_cases (w : Half) :
    (∃ i, decode w = .ok i ∧ encode i = w) ∨ (decode w = .error (.undefinedWord w) ∧ UndefinedWord w) := by
  have hrow := decodeNibbles_rowOf (w.extractLsb' 12 4) (w.extractLsb' 8 4) (w.extractLsb' 4 4) (w.extractLsb' 0 4)
  rw [half_eq_nibbles] at hrow
  unfold decode
  generalize decodeNibbles _ _ _ _ = r at hrow ⊢
  cases hrow with
  | row h => exact .inl ⟨_, rfl, h⟩
  | listed h => exact .inr ⟨rfl, h⟩

/-- Settles O2, by the two answers of the decoder. -/
theorem decodedWordIsTheCodeOfItsInstruction : Obligations.DecodedWordIsTheCodeOfItsInstruction := by
  intro w i h
  obtain ⟨j, hj, hcode⟩ | ⟨herror, -⟩ := decode_cases w
  · obtain rfl : j = i := by simpa [hj] using h
    exact hcode
  · simp [herror] at h

/-- Settles O3: no listed word decodes, and a rejected word is listed. -/
theorem undefinedWordsAreExactlyThoseOfTheTable : Obligations.UndefinedWordsAreExactlyThoseOfTheTable := by
  intro w
  refine ⟨decode_of_undefinedWord, fun hdefined => ?_⟩
  obtain ⟨i, hi, -⟩ | ⟨-, hlisted⟩ := decode_cases w
  · exact ⟨i, hi⟩
  · exact absurd hlisted hdefined

end Sys2Proof
end

section
/-! The data transfer instructions (R130 to R168; 40_data_transfer.md): one lemma per shared operation says what every
instruction that is that operation does, so that an instruction brings only its code, its operation and its address. -/

namespace Sys2Proof

/-- The code of an instruction decodes to it, where the code is written by its format (R102). -/
theorem decode_of_encode {i : Instr} {w : Half} (h : encode i = w) : decode w = .ok i :=
  h ▸ encodedInstructionDecodesToItself i

/-- Settles O4: each word is the code of its instruction. -/
theorem sampleWordsDecode : Obligations.SampleWordsDecode :=
  ⟨decode_of_encode rfl, decode_of_encode rfl, decode_of_encode rfl, decode_of_encode rfl, decode_of_encode rfl,
    decode_of_encode rfl, decode_of_encode rfl, decode_of_encode rfl⟩

end Sys2Proof

namespace Sys2Proof.Machine

variable {i : Instr} {w : Half} {s : State} {sz : Size} {a v : Word} {n : Reg}

/-! ### Instructions that write one register or T -/

/-- An instruction that only puts `v` into Rn completes with any property that a register holding `v` gives. -/
theorem completes_of_setReg {result : State → Prop} (hcode : encode i = w)
    (hexec : exec i s = .next (s.setReg n v).advance) (hresult : ∀ t : State, t.reg n = v → result t) :
    Completes w i s { regs := [n] } result :=
  ⟨decode_of_encode hcode, _, hexec, sequential_advance rfl,
    ((Frame.refl s rfl).setReg (List.mem_singleton.2 rfl) v).advance, hresult _ (by simp)⟩

/-- And one that only puts `b` into T. -/
theorem completes_of_setT {b : Bool} {result : State → Prop} (hcode : encode i = w)
    (hexec : exec i s = .next (s.setT b).advance) (hresult : ∀ t : State, t.t = b → result t) :
    Completes w i s { srBits := [bitT] } result :=
  ⟨decode_of_encode hcode, _, hexec, sequential_advance rfl,
    ((Frame.refl s rfl).setT (List.mem_singleton.2 rfl) b).advance, hresult _ (s.setT_t b)⟩

theorem flagWord_eq (b : Bool) : flagWord b = if b then 1 else 0 := by cases b <;> rfl

/-- The middle longword of two is the low half of the first and the high half of the second (R168). -/
theorem middle_of_pair (x y : Word) : (x ++ y).extractLsb' 16 32 = x.extractLsb' 0 16 ++ y.extractLsb' 16 16 :=
  calc (x ++ y).extractLsb' 16 32
    _ = (x ++ y).extractLsb' 32 16 ++ (x ++ y).extractLsb' 16 16 :=
      (BitVec.extractLsb'_append_extractLsb'_eq_extractLsb' (len₂ := 16) (len₁ := 16) rfl).symm
    _ = x.extractLsb' 0 16 ++ y.extractLsb' 16 16 :=
      congrArg₂ (· ++ ·) (BitVec.extractLsb'_append_eq_of_le (Nat.le_refl 32))
        (BitVec.extractLsb'_append_eq_of_add_le (Nat.le_refl 32))

/-- Settles O21: each of the five puts one value into Rn. -/
theorem registerMovesWriteOnlyTheirDestination : Obligations.RegisterMovesWriteOnlyTheirDestination := by
  intro imm m n s
  refine ⟨completes_of_setReg rfl rfl fun _ h => h, completes_of_setReg rfl rfl fun _ h => h,
    completes_of_setReg rfl rfl fun _ h => ?movt, completes_of_setReg rfl rfl fun _ h => h,
    completes_of_setReg rfl rfl fun _ h => ?xtrct⟩
  case movt => exact h.trans (flagWord_eq s.t)
  case xtrct => exact h.trans (middle_of_pair _ _)

/-! ### SWAP.B and CMP/STR, byte by byte -/

/-- The parts of a longword put together from a word and two bytes. -/
theorem parts_of_append (x : Half) (y z : Byte) :
    (x ++ y ++ z).extractLsb' 16 16 = x ∧ (x ++ y ++ z).extractLsb' 8 8 = y ∧
      (x ++ y ++ z).extractLsb' 0 8 = z := by
  have above (k len : Nat) : (x ++ y ++ z).extractLsb' (8 + k) len = (x ++ y).extractLsb' k len := by
    rw [BitVec.extractLsb'_append_eq_of_le (Nat.le_add_right 8 k), Nat.add_sub_cancel_left]
  exact ⟨(above 8 16).trans BitVec.extractLsb'_append_eq_left, (above 0 8).trans BitVec.extractLsb'_append_eq_right,
    BitVec.extractLsb'_append_eq_right⟩

/-- Equal bytes are the zero bytes of the exclusive or (R182, D38). -/
theorem someByteEqual_iff (x y : Word) :
    someByteEqual x y = true ↔ ∃ j < 4, x.extractLsb' (8 * j) 8 = y.extractLsb' (8 * j) 8 := by
  have byte (k : Nat) : (x ^^^ y).extractLsb' k 8 = 0 ↔ x.extractLsb' k 8 = y.extractLsb' k 8 := by
    rw [BitVec.extractLsb'_xor]
    exact BitVec.xor_eq_zero_iff
  simp only [someByteEqual, Bool.or_eq_true, beq_iff_eq, byte, Nat.exists_lt_succ_right, Nat.not_lt_zero, false_and,
    exists_false, false_or, Nat.reduceMul]
  tauto

/-- Settles O22: SWAP.B puts the three parts into Rn, CMP/STR the comparison of the four bytes into T. -/
theorem byteReadingsOfSwapBAndCmpStr : Obligations.ByteReadingsOfSwapBAndCmpStr := by
  intro m n s
  refine ⟨completes_of_setReg rfl rfl fun t h => ?swap, completes_of_setT rfl rfl fun t h => ?compare⟩
  case swap => rw [h]; exact parts_of_append _ _ _
  case compare => rw [h]; exact someByteEqual_iff _ _

/-! ### Loads -/

/-- An instruction that is `loadInto` is a load. -/
theorem loads_of_loadInto (hcode : encode i = w) (hexec : exec i s = loadInto s sz a n) : Loads w i s sz a n := by
  refine ⟨fun ha hm => ⟨decode_of_encode hcode, _, hexec.trans (readThen_ok ha hm), sequential_advance rfl, ?frame,
      ?datum⟩, fun ha hm => hexec.trans (readThen_absent ha hm),
    fun ha => ⟨decode_of_encode hcode, hexec.trans (readThen_misaligned ha)⟩⟩
  case frame => exact ((Frame.one s rfl).setReg (List.mem_singleton.2 rfl) _).advance
  case datum => simp [loadExtend_readValue]

/-- A displacement of a byte access is not scaled (R124, R126). -/
theorem mul_byte_bytes (x : Word) : x * Size.byte.bytes = x := BitVec.mul_one x

/-- Settles O24: each of the twelve is `loadInto` at its address. -/
theorem loadsExtendTheDatumIntoTheirRegister : Obligations.LoadsExtendTheDatumIntoTheirRegister := by
  intro m n d e s
  refine ⟨loads_of_loadInto rfl rfl, loads_of_loadInto rfl rfl, loads_of_loadInto rfl rfl,
    loads_of_loadInto rfl ?disp, loads_of_loadInto rfl rfl, loads_of_loadInto rfl rfl,
    loads_of_loadInto rfl rfl, loads_of_loadInto rfl rfl, loads_of_loadInto rfl rfl,
    loads_of_loadInto rfl ?gbr, loads_of_loadInto rfl rfl, loads_of_loadInto rfl rfl⟩
  case disp => rw [← mul_byte_bytes (d.setWidth 32)]; rfl
  case gbr => rw [← mul_byte_bytes (e.setWidth 32)]; rfl

/-- An instruction that is `loadIncInto` is a load from `@Rm+`; where Rm is Rn too, the datum is written last (D20). -/
theorem loadsInc_of_loadIncInto {m : Reg} (hcode : encode i = w) (hexec : exec i s = loadIncInto s sz m n) :
    LoadsInc w i s sz m { regs := [m, n] } fun t => t.reg n = loadedValue s.arbitrate 0 sz (s.reg m) ∧
      (m ≠ n → t.reg m = s.reg m + sz.bytes) := by
  refine ⟨fun ha hm => ⟨decode_of_encode hcode, _, hexec.trans (readThen_ok ha hm), sequential_advance rfl, ?frame,
      ?datum, fun hne => ?base⟩, fun ha hm => hexec.trans (readThen_absent ha hm),
    fun ha => ⟨decode_of_encode hcode, _, s.baseAfterError_cases 0 m _, hexec.trans (readThen_misaligned ha)⟩⟩
  case frame =>
    have hm : m ∈ [m, n] := List.mem_cons_self
    have hn : n ∈ [m, n] := List.mem_cons_of_mem m (List.mem_singleton.2 rfl)
    exact (((Frame.one s rfl).setReg hm _).setReg hn _).advance
  case datum => simp [loadExtend_readValue, eaReg]
  case base => simp [hne, incremented]

/-- Settles O25: each of the three is `loadIncInto`. -/
theorem postIncrementLoadsKeepTheDatum : Obligations.PostIncrementLoadsKeepTheDatum := by
  intro m n s
  exact ⟨loadsInc_of_loadIncInto rfl rfl, loadsInc_of_loadIncInto rfl rfl, loadsInc_of_loadIncInto rfl rfl⟩

/-! ### Stores -/

/-- An instruction that is `storeFrom` is a store. -/
theorem stores_of_storeFrom (hcode : encode i = w) (hexec : exec i s = storeFrom s sz a v) :
    Stores w i s sz a v := by
  refine ⟨fun ha hm hw => ⟨decode_of_encode hcode, _, hexec.trans (writeThen_ok ha hm hw), ?next, ?frame, ?holds⟩,
    ⟨fun ha hm => hexec.trans (writeThen_absent ha hm), fun ha hm hw => hexec.trans (writeThen_rom ha hm hw)⟩,
    fun ha => ⟨decode_of_encode hcode, hexec.trans (writeThen_misaligned ha)⟩⟩
  case next => exact sequential_advance (by simp)
  case frame => exact ((Frame.one s rfl).store (fun _ hb => hb) v).advance
  case holds => exact (s.arbitrate.store_holds sz a v).of_eq (fun _ => rfl) fun _ _ => rfl

/-- Settles O26: each of the twelve is `storeFrom` at its address. -/
theorem storesWriteTheirBytesAndNoOther : Obligations.StoresWriteTheirBytesAndNoOther := by
  intro m n d e s
  refine ⟨stores_of_storeFrom rfl rfl, stores_of_storeFrom rfl rfl, stores_of_storeFrom rfl rfl,
    stores_of_storeFrom rfl ?disp, stores_of_storeFrom rfl rfl, stores_of_storeFrom rfl rfl,
    stores_of_storeFrom rfl rfl, stores_of_storeFrom rfl rfl, stores_of_storeFrom rfl rfl,
    stores_of_storeFrom rfl ?gbr, stores_of_storeFrom rfl rfl, stores_of_storeFrom rfl rfl⟩
  case disp => rw [← mul_byte_bytes (d.setWidth 32)]; rfl
  case gbr => rw [← mul_byte_bytes (e.setWidth 32)]; rfl

/-- An instruction that is `storeDecFrom` is a store at `@-Rn`. -/
theorem storesDec_of_storeDecFrom (hcode : encode i = w) (hexec : exec i s = storeDecFrom s sz n v) :
    StoresDec w i s sz n v := by
  refine ⟨fun ha hm hw => ⟨decode_of_encode hcode, _, hexec.trans (writeThen_ok ha hm hw), ?next, ?frame, ?holds,
      ?base⟩,
    ⟨fun ha hm => hexec.trans (writeThen_absent ha hm), fun ha hm hw => hexec.trans (writeThen_rom ha hm hw)⟩,
    fun ha => ⟨decode_of_encode hcode, _, s.baseAfterError_cases 0 n _, hexec.trans (writeThen_misaligned ha)⟩⟩
  case next => exact sequential_advance (by simp)
  case frame =>
    exact (((Frame.one s rfl).store (fun _ hb => hb) v).setReg (List.mem_singleton.2 rfl) _).advance
  case holds => exact (s.arbitrate.store_holds sz _ v).of_eq (fun _ => rfl) fun _ _ => rfl
  case base => simp [eaPreDec]

/-- Settles O27: each of the three is `storeDecFrom`. -/
theorem preDecrementStoresKeepTheDecrementedAddress : Obligations.PreDecrementStoresKeepTheDecrementedAddress := by
  intro m n s
  exact ⟨storesDec_of_storeDecFrom rfl rfl, storesDec_of_storeDecFrom rfl rfl, storesDec_of_storeDecFrom rfl rfl⟩

/-! ### PC-relative operands (R128, R254) -/

theorem pcOperandGuard_outside {r : Result} (h : s.delay = none) : pcOperandGuard s r = r := by
  simp [pcOperandGuard, h]

theorem pcOperandGuard_inSlot {r : Result} {target : Word} (h : s.delay = some target) :
    pcOperandGuard s r = .refused .pcRelativeInDelaySlot := by
  simp [pcOperandGuard, h]

/-- The masked PC and any longword displacement from it are longword addresses (R128). -/
theorem aligned_long_masked_add (x y : Word) : aligned .long ((x &&& 0xFFFFFFFC) + y * 4) = true := by
  have hmask : aligned .long (x &&& 0xFFFFFFFC) = true := by simp [aligned_long_eq]
  simp only [aligned, beq_iff_eq, BitVec.toNat_add, BitVec.toNat_mul, BitVec.reduceToNat] at hmask ⊢
  omega

/-- Settles O23: outside a slot the guard passes to the load, or to the write of R0; in a slot it refuses. -/
theorem pcRelativeOperandsUsePcPlusFour : Obligations.PcRelativeOperandsUsePcPlusFour := by
  intro d n s
  exact ⟨fun hs => ⟨loads_of_loadInto rfl (pcOperandGuard_outside hs),
      loads_of_loadInto rfl (pcOperandGuard_outside hs),
      aligned_long_masked_add _ _, completes_of_setReg rfl (pcOperandGuard_outside hs) fun _ h => h⟩,
    fun _ hs => ⟨pcOperandGuard_inSlot hs, pcOperandGuard_inSlot hs, pcOperandGuard_inSlot hs⟩⟩

end Sys2Proof.Machine
end

section
/-! The arithmetic instructions on registers (R170 to R203; 41_arithmetic.md): what carry, borrow and overflow say of the
exact result (R203, D37), and then each instruction as the one operation it is. -/

namespace Sys2Proof.Machine

variable {i : Instr} {w : Half} {s : State} {n : Reg} {v : Word}

/-- An instruction that only puts `v` into Rn and `b` into T. -/
theorem completes_of_setReg_setT {b : Bool} {result : State → Prop} (hcode : encode i = w)
    (hexec : exec i s = .next ((s.setReg n v).setT b).advance)
    (hresult : ∀ t : State, t.reg n = v → t.t = b → result t) :
    Completes w i s { regs := [n], srBits := [bitT] } result :=
  ⟨decode_of_encode hcode, _, hexec, sequential_advance rfl,
    (((Frame.refl s rfl).setReg (List.mem_singleton.2 rfl) v).setT (List.mem_singleton.2 rfl) b).advance,
    hresult _ (by simp) (by simp)⟩

/-! ### Sums, differences and extensions -/

/-- Settles O28: each of the eight puts one value into Rn. -/
theorem addSubNegAndExtensionsWriteOnlyTheirDestination :
    Obligations.AddSubNegAndExtensionsWriteOnlyTheirDestination := by
  intro imm m n s
  have low {k : Nat} (hk : k ≤ 32) : (s.reg m).setWidth k = (s.reg m).extractLsb' 0 k :=
    BitVec.setWidth_eq_extractLsb' hk
  exact ⟨completes_of_setReg rfl rfl fun _ h => h, completes_of_setReg rfl rfl fun _ h => h,
    completes_of_setReg rfl rfl fun _ h => h, completes_of_setReg rfl rfl fun _ h => h.trans (zero_sub _),
    completes_of_setReg rfl rfl fun _ h => h.trans (congrArg (BitVec.signExtend 32) (low (by decide))),
    completes_of_setReg rfl rfl fun _ h => h.trans (congrArg (BitVec.signExtend 32) (low (by decide))),
    completes_of_setReg rfl rfl fun _ h => h.trans (congrArg (BitVec.setWidth 32) (low (by decide))),
    completes_of_setReg rfl rfl fun _ h => h.trans (congrArg (BitVec.setWidth 32) (low (by decide)))⟩

/-! ### Carry and borrow -/

theorem flagWord_toNat (b : Bool) : (flagWord b).toNat = b.toNat := by cases b <;> rfl

/-- The sum and 2^32 times the carry are the exact sum (R203). -/
theorem add_carryOut (x y : Word) (c : Bool) :
    (x + y + flagWord c).toNat + 2 ^ 32 * (carryOut x y c).toNat = x.toNat + y.toNat + c.toNat := by
  have hc : c.toNat ≤ 1 := c.toNat_le
  rw [BitVec.toNat_add, BitVec.toNat_add, flagWord_toNat, carryOut]
  by_cases h : 2 ^ 32 ≤ x.toNat + y.toNat + c.toNat <;> simp only [h, decide_true, decide_false, Bool.toNat_true,
    Bool.toNat_false] <;> omega

/-- The difference less 2^32 times the borrow is the exact difference (R203). -/
theorem sub_borrowOut (x y : Word) (c : Bool) :
    ((x - y - flagWord c).toNat : Int) - 2 ^ 32 * (borrowOut x y c).toNat = x.toNat - y.toNat - c.toNat := by
  have hc : c.toNat ≤ 1 := c.toNat_le
  rw [BitVec.toNat_sub, BitVec.toNat_sub, flagWord_toNat, borrowOut]
  by_cases h : x.toNat < y.toNat + c.toNat <;> simp only [h, decide_true, decide_false, Bool.toNat_true,
    Bool.toNat_false] <;> omega

/-- Settles O29: each puts the sum or difference into Rn and the carry or borrow into T. -/
theorem carryAndBorrowCompleteTheExactResult : Obligations.CarryAndBorrowCompleteTheExactResult := by
  intro m n s
  refine ⟨completes_of_setReg_setT rfl rfl fun t h ht => ?addc, completes_of_setReg_setT rfl rfl fun t h ht => ?subc,
    completes_of_setReg_setT rfl rfl fun t h ht => ?negc⟩ <;> rw [h, ht]
  case addc => exact add_carryOut _ _ _
  case subc => exact sub_borrowOut _ _ _
  case negc => exact sub_borrowOut 0 _ _

/-! ### Overflow -/

/-- The bit formula of R173 is the test of the signed range. -/
theorem addOverflow_iff (x y : Word) :
    addOverflow x y = true ↔ x.toInt + y.toInt < -2 ^ 31 ∨ 2 ^ 31 - 1 < x.toInt + y.toInt := by
  have hformula : addOverflow x y = x.saddOverflow y := (BitVec.saddOverflow_eq x y).symm
  rw [hformula, BitVec.saddOverflow]
  simp only [Bool.or_eq_true, decide_eq_true_eq]
  omega

/-- So is the bit formula of R202, in either direction. -/
theorem subOverflow_iff (x y : Word) :
    subOverflow x y = true ↔ x.toInt - y.toInt < -2 ^ 31 ∨ 2 ^ 31 - 1 < x.toInt - y.toInt := by
  have hformula : subOverflow x y = x.ssubOverflow y := by
    rw [BitVec.ssubOverflow_eq, subOverflow]
    cases x.msb <;> cases y.msb <;> simp
  rw [hformula, BitVec.ssubOverflow]
  simp only [Bool.or_eq_true, decide_eq_true_eq]
  omega

/-- Settles O30: each puts the wrapped result into Rn and the overflow into T. -/
theorem overflowFlagMeansOutOfSignedRange : Obligations.OverflowFlagMeansOutOfSignedRange := by
  intro m n s
  exact ⟨completes_of_setReg_setT rfl rfl fun _ h ht => ⟨h, by rw [ht]; exact addOverflow_iff _ _⟩,
    completes_of_setReg_setT rfl rfl fun _ h ht => ⟨h, by rw [ht]; exact subOverflow_iff _ _⟩⟩

/-! ### Comparisons -/

/-- `completes_of_setT`, where the flag put into T is a test of `p`. -/
theorem completes_of_test {b : Bool} {p : Prop} (hcode : encode i = w) (hexec : exec i s = .next (s.setT b).advance)
    (htest : b = true ↔ p) : Completes w i s { srBits := [bitT] } fun t => t.t = true ↔ p :=
  completes_of_setT hcode hexec fun _ ht => by rw [ht]; exact htest

theorem not_msb_iff (x : Word) : (!x.msb) = true ↔ x.toInt ≥ 0 := by
  rw [BitVec.msb_eq_toInt, Bool.not_eq_true', decide_eq_false_iff_not, not_lt]

/-- Settles O31: each puts the test of its condition into T. -/
theorem comparisonsWriteOnlyTheTBit : Obligations.ComparisonsWriteOnlyTheTBit := by
  intro imm m n s
  exact ⟨completes_of_test rfl rfl beq_iff_eq, completes_of_test rfl rfl beq_iff_eq,
    completes_of_test rfl rfl BitVec.ule_iff_toNat_le, completes_of_test rfl rfl BitVec.sle_iff_toInt_le,
    completes_of_test rfl rfl BitVec.ult_iff_toNat_lt, completes_of_test rfl rfl BitVec.slt_iff_toInt_lt,
    completes_of_test rfl rfl (not_msb_iff _), completes_of_test rfl rfl BitVec.slt_iff_toInt_lt⟩

end Sys2Proof.Machine
end

section
/-! Division (R183 to R185, R188): the set-up instructions, the step DIV1_STEP of DIV1 (D19), and the integer recurrence
that makes repeated steps a division. -/

namespace Sys2Proof.Machine

variable {m n : Reg} {s : State}

/-! ### DT and the set-up -/

/-- Settles O32: DT by the zero test of the new Rn; DIV0S and DIV0U write the three flags. -/
theorem decrementAndDivisionSetUp : Obligations.DecrementAndDivisionSetUp := by
  intro m n s
  have hstart : Frame { srBits := [bitT, bitQ, bitM] } s s := Frame.refl s rfl
  have hT : bitT ∈ [bitT, bitQ, bitM] := by decide
  have hQ : bitQ ∈ [bitT, bitQ, bitM] := by decide
  have hM : bitM ∈ [bitT, bitQ, bitM] := by decide
  refine ⟨completes_of_setReg_setT rfl rfl fun t h ht => ⟨h, ?dt⟩,
    ⟨decode_of_encode rfl, _, rfl, sequential_advance rfl, (((hstart.setQ hQ _).setM hM _).setT hT _).advance, ?div0s⟩,
    ⟨decode_of_encode rfl, _, rfl, sequential_advance rfl, (((hstart.setM hM _).setQ hQ _).setT hT _).advance, ?div0u⟩⟩
  case dt => rw [ht, beq_iff_eq]; exact sub_eq_zero
  case div0s => simp [BitVec.msb_eq_getLsbD_last]
  case div0u => simp

/-! ### The step -/

/-- Shifting left with the flag entering below. -/
theorem shiftLeft_or_flagWord (x : Word) (t : Bool) : x <<< 1 ||| flagWord t = x * 2 + if t then 1 else 0 := by
  have hbits : x <<< 1 &&& flagWord t = 0#32 := by
    rw [flagWord_eq]
    ext j hj
    cases t <;> cases j <;> simp [BitVec.getElem_one]
  rw [← BitVec.add_eq_or_of_and_eq_zero _ _ hbits, flagWord_eq, BitVec.shiftLeft_eq_mul_twoPow]
  rfl

/-- Settles O33: DIV1_STEP read off for Q = M and for Q ≠ M. -/
theorem div1IsTheStepOfTheRule : Obligations.Div1IsTheStepOfTheRule := by
  intro m n s a b
  have hstart : Frame { regs := [n], srBits := [bitT, bitQ] } s s := Frame.refl s rfl
  have hT : bitT ∈ [bitT, bitQ] := by decide
  have hQ : bitQ ∈ [bitT, bitQ] := by decide
  refine ⟨decode_of_encode rfl, _, rfl, sequential_advance rfl,
    (((hstart.setReg (List.mem_singleton.2 rfl) _).setQ hQ _).setT hT _).advance, fun h => ?subtract, fun h => ?add,
    ?flag, ?m⟩
  case subtract => simp [div1Step, shiftLeft_or_flagWord, borrowOut, h, a, b, BitVec.msb_eq_getLsbD_last]
  case add => simp [div1Step, shiftLeft_or_flagWord, carryOut, h, a, b, BitVec.msb_eq_getLsbD_last]
  case flag => simp [div1Step]
  case m => simp

/-! ### The recurrence of the partial remainder -/

/-- The difference and the sum of two words, with the borrow and the carry that DIV1_STEP takes into Q. -/
theorem sub_borrow (x y : Word) :
    ((x - y).toNat : Int) - 2 ^ 32 * (decide (x.toNat < y.toNat)).toNat = x.toNat - y.toNat := by
  have hexact := sub_borrowOut x y false
  rwa [show flagWord false = 0 from rfl, sub_zero, Bool.toNat_false, Nat.cast_zero, sub_zero] at hexact

theorem add_carry (x y : Word) :
    (x + y).toNat + 2 ^ 32 * (decide (2 ^ 32 ≤ x.toNat + y.toNat)).toNat = x.toNat + y.toNat := by
  have hexact := add_carryOut x y false
  rwa [show flagWord false = 0 from rfl, add_zero] at hexact

/-- The bit shifted out and the shifted value are exactly 2x + t. -/
theorem shiftIn_exact (x : Word) (t : Bool) :
    (x * 2 + if t then 1 else 0 : Word).toNat + 2 ^ 32 * (x.getLsbD 31).toNat = 2 * x.toNat + t.toNat := by
  have hx := x.isLt
  have hout : x.getLsbD 31 = decide (2 ^ 31 ≤ x.toNat) := (BitVec.msb_eq_getLsbD_last x).symm.trans x.msb_eq_decide
  have ht : t.toNat ≤ 1 := t.toNat_le
  rw [hout, ← flagWord_eq, BitVec.toNat_add, BitVec.toNat_mul, flagWord_toNat]
  by_cases h : 2 ^ 31 ≤ x.toNat <;> simp only [h, decide_true, decide_false, Bool.toNat_true, Bool.toNat_false,
    BitVec.reduceToNat] <;> omega

theorem xor_toNat_of_le : ∀ {k c : Bool}, k.toNat ≤ c.toNat → (k ^^ c).toNat = c.toNat - k.toNat := by decide

theorem xor_toNat_of_pos : ∀ {k c : Bool}, 0 < k.toNat + c.toNat → (k ^^ c).toNat = 2 - (k.toNat + c.toNat) := by
  decide

/-- Q was 0: no bit is shifted out without a borrow, so Q' says how far the new remainder lies below r. `a` is the shifted
value, `k` the bit shifted out, `c` the borrow. -/
theorem remainder_of_subtract {x y a r : Nat} {t k c : Bool} (hshift : a + 2 ^ 32 * k.toNat = 2 * x + t.toNat)
    (hsub : (r : Int) - 2 ^ 32 * c.toNat = a - y) (hy : y < 2 ^ 32) (hx : x < y) :
    (r : Int) - 2 ^ 32 * (k ^^ c).toNat = 2 * x + t.toNat - y := by
  have ht : t.toNat ≤ 1 := t.toNat_le
  have hborrow : k.toNat ≤ c.toNat := by omega
  rw [xor_toNat_of_le hborrow]
  omega

/-- Q was 1: a bit is shifted out or there is a carry. `c` is the carry, and V is x - 2^32. -/
theorem remainder_of_add {x y a r : Nat} {t k c : Bool} (hshift : a + 2 ^ 32 * k.toNat = 2 * x + t.toNat)
    (hadd : r + 2 ^ 32 * c.toNat = a + y) (hr : r < 2 ^ 32) (hy : y < 2 ^ 32) (hv : 2 ^ 32 ≤ x + y) :
    (r : Int) - 2 ^ 32 * (k ^^ c).toNat = 2 * (x - 2 ^ 32) + t.toNat + y := by
  have hk : k.toNat ≤ 1 := k.toNat_le
  have hc : c.toNat ≤ 1 := c.toNat_le
  have hcarry : 0 < k.toNat + c.toNat := by omega
  rw [xor_toNat_of_pos hcarry]
  omega

/-- The signed partial remainder: Rn less 2^32 where Q is set. -/
def State.partialRemainder (s : State) (n : Reg) : Int := (s.reg n).toNat - 2 ^ 32 * s.q.toNat

theorem not_q_iff_remainder_nonneg (s : State) (n : Reg) : s.q = false ↔ 0 ≤ s.partialRemainder n := by
  have hlt := (s.reg n).isLt
  rw [State.partialRemainder]
  cases s.q <;> simp only [Bool.toNat_true, Bool.toNat_false, reduceCtorEq, true_iff, false_iff] <;> omega

/-- What DIV1 leaves of the partial remainder, from DIV1_STEP (R183). -/
theorem div1_partialRemainder (hne : m ≠ n) (hm : s.m = false) (hlow : -((s.reg m).toNat : Int) ≤ s.partialRemainder n)
    (hhigh : s.partialRemainder n < (s.reg m).toNat) :
    ∃ t, exec (.div1 m n) s = .next t ∧ (t.t = true ↔ t.q = false) ∧
      t.partialRemainder n = 2 * s.partialRemainder n + s.t.toNat +
        (if s.q then ((s.reg m).toNat : Int) else -(s.reg m).toNat) := by
  obtain ⟨-, t, hexec, -, -, hsubtract, hadd, hflag, -⟩ := div1IsTheStepOfTheRule m n s
  refine ⟨t, hexec, hm ▸ hflag, ?_⟩
  have hshift := shiftIn_exact (s.reg n) s.t
  have hrem := (t.reg n).isLt
  have hdivisor := (s.reg m).isLt
  simp only [if_neg hne, hm, Bool.xor_false] at hsubtract hadd
  unfold State.partialRemainder at *
  generalize s.reg n * 2 + (if s.t then 1 else 0) = a at hshift hsubtract hadd
  cases hq : s.q with
  | false =>
    obtain ⟨hr, hq'⟩ := hsubtract hq
    rw [hq, Bool.toNat_false] at hhigh
    have hnext := remainder_of_subtract hshift (sub_borrow a (s.reg m)) hdivisor (by omega)
    rw [hr, hq', hnext, Bool.toNat_false, if_neg Bool.false_ne_true]
    omega
  | true =>
    obtain ⟨hr, hq'⟩ := hadd (by simp [hq])
    rw [hq, Bool.toNat_true] at hlow
    have hnext := remainder_of_add hshift (add_carry a (s.reg m)) (hr ▸ hrem) hdivisor (by omega)
    rw [hr, hq', hnext, Bool.toNat_true, if_pos rfl]
    omega

/-- Settles O34: the recurrence gives the range, and T is Q' negated. -/
theorem div1KeepsThePartialRemainderInRange : Obligations.Div1KeepsThePartialRemainderInRange := by
  intro m n s hne hm y v hhigh hlow
  obtain ⟨t, hexec, hflag, hrec⟩ := div1_partialRemainder hne hm hlow hhigh
  have hin : s.t.toNat ≤ 1 := s.t.toNat_le
  have hsign : s.q = false ↔ 0 ≤ v s := not_q_iff_remainder_nonneg s n
  have hrange : -y ≤ v t ∧ v t < y := by
    change v t = 2 * v s + s.t.toNat + (if s.q then y else -y) at hrec
    cases hq : s.q with
    | false =>
      have hnonneg := hsign.1 hq
      rw [hq, if_neg Bool.false_ne_true] at hrec
      omega
    | true =>
      have hneg : ¬ 0 ≤ v s := fun h => by simp [hsign.2 h] at hq
      rw [hq, if_pos rfl] at hrec
      omega
  exact ⟨t, hexec, hrec, hrange.1, hrange.2, hflag.trans (not_q_iff_remainder_nonneg t n)⟩

end Sys2Proof.Machine
end

section
/-! Multiplication (R186, R187, R193 to R197): the exact products, and the pair MACH:MACL with products added
(D17, D18). -/

namespace Sys2Proof.Machine

variable {i : Instr} {w : Half} {s : State} {m n : Reg} {sz : Size}

/-! ### The pair MACH:MACL -/

/-- The pair holds what is put into it. -/
@[simp] theorem State.setMac_mac (s : State) (v : BitVec 64) : (s.setMac v).mac = v :=
  BitVec.extractLsb'_append_extractLsb' (w := 32) (len := 32)

/-- A multiplication has executed since MACH and MACL were written (R38 a). -/
def State.Noted (s : State) : Prop := s.multSinceMach = true ∧ s.multSinceMacl = true

/-- An instruction that only puts `v` into the pair. -/
theorem completes_of_setMac {v : BitVec 64} {result : State → Prop} (hrun : s.platform.stopMult = false)
    (hcode : encode i = w) (hexec : exec i s = multiplierGuard s (.next (s.setMac v).multiplied.advance))
    (hresult : ∀ t : State, t.mac = v → result t) :
    Completes w i s { mach := true, macl := true, inFlight := true } fun t => result t ∧ t.Noted :=
  ⟨decode_of_encode hcode, _, hexec.trans (multiplierGuard_of_running hrun), sequential_advance rfl,
    (((Frame.refl s rfl).setMac rfl rfl v).multiplied rfl).advance, hresult _ (by simp), rfl, rfl⟩

/-- An instruction that is `putMacl`. -/
theorem completes_of_putMacl {v : Word} {result : State → Prop} (hrun : s.platform.stopMult = false)
    (hcode : encode i = w) (hexec : exec i s = multiplierGuard s (putMacl s v))
    (hresult : ∀ t : State, t.macl = v → result t) :
    Completes w i s { macl := true, inFlight := true } fun t => result t ∧ t.Noted :=
  ⟨decode_of_encode hcode, _, hexec.trans (multiplierGuard_of_running hrun), sequential_advance rfl,
    (((Frame.refl s rfl).withMacl rfl v).multiplied rfl).advance, hresult _ (by simp), rfl, rfl⟩

/-! ### Exact products -/

/-- The signed product of two longwords fits 64 bits. -/
theorem signedProduct_toInt (x y : Word) : (signedProduct x y).toInt = x.toInt * y.toInt := by
  have hlow : -2 ^ 62 ≤ x.toInt * y.toInt := BitVec.le_toInt_mul_toInt
  have hhigh : x.toInt * y.toInt ≤ 2 ^ 62 := BitVec.toInt_mul_toInt_le
  exact BitVec.toInt_ofInt_eq_self (by decide) (by omega) (by omega)

/-- So does the unsigned product. -/
theorem unsignedProduct_toNat (x y : Word) : (unsignedProduct x y).toNat = x.toNat * y.toNat := by
  have hlt : x.toNat * y.toNat < 2 ^ 32 * 2 ^ 32 := Nat.mul_lt_mul'' x.isLt y.isLt
  exact Nat.mod_eq_of_lt hlt

/-- Settles O35: each puts its product into the pair. -/
theorem doubleLengthProductsAreExact : Obligations.DoubleLengthProductsAreExact := by
  intro m n s hrun
  exact ⟨completes_of_setMac hrun rfl rfl fun _ h => (congrArg BitVec.toInt h).trans (signedProduct_toInt _ _),
    completes_of_setMac hrun rfl rfl fun _ h => (congrArg BitVec.toNat h).trans (unsignedProduct_toNat _ _)⟩

/-- The signed product of two low halves fits 32 bits. -/
theorem sextWord_mul_toInt (x y : Word) :
    (sextWord x * sextWord y).toInt = (x.extractLsb' 0 16).toInt * (y.extractLsb' 0 16).toInt := by
  have hhalf (z : Word) : (sextWord z).toInt = (z.extractLsb' 0 16).toInt := by
    rw [sextWord, BitVec.toInt_signExtend_of_le (by decide), BitVec.setWidth_eq_extractLsb' (by decide)]
  have hlow : -2 ^ 30 ≤ (x.extractLsb' 0 16).toInt * (y.extractLsb' 0 16).toInt := BitVec.le_toInt_mul_toInt
  have hhigh : (x.extractLsb' 0 16).toInt * (y.extractLsb' 0 16).toInt ≤ 2 ^ 30 := BitVec.toInt_mul_toInt_le
  rw [BitVec.toInt_mul, hhalf, hhalf]
  exact Int.bmod_eq_of_le (by omega) (by omega)

/-- So does the unsigned product. -/
theorem zextWord_mul_toNat (x y : Word) :
    (zextWord x * zextWord y).toNat = (x.toNat % 2 ^ 16) * (y.toNat % 2 ^ 16) := by
  have hhalf (z : Word) : (zextWord z).toNat = z.toNat % 2 ^ 16 := by
    rw [zextWord, BitVec.toNat_setWidth_of_le (by decide), BitVec.toNat_setWidth]
  have hlt : (x.toNat % 2 ^ 16) * (y.toNat % 2 ^ 16) < 2 ^ 16 * 2 ^ 16 :=
    Nat.mul_lt_mul'' (Nat.mod_lt _ (by decide)) (Nat.mod_lt _ (by decide))
  rw [BitVec.toNat_mul, hhalf, hhalf]
  exact Nat.mod_eq_of_lt hlt

/-- Settles O36: each puts its product into MACL. -/
theorem singleLengthProductsWriteMaclOnly : Obligations.SingleLengthProductsWriteMaclOnly := by
  intro m n s hrun
  exact ⟨completes_of_putMacl hrun rfl rfl fun _ h => (congrArg BitVec.toNat h).trans (BitVec.toNat_mul _ _),
    completes_of_putMacl hrun rfl rfl fun _ h => (congrArg BitVec.toInt h).trans (sextWord_mul_toInt _ _),
    completes_of_putMacl hrun rfl rfl fun _ h => (congrArg BitVec.toNat h).trans (zextWord_mul_toNat _ _)⟩

/-! ### The operands of MAC -/

/-- Both operands are aligned and something lies there. -/
def State.MacReadable (s : State) (sz : Size) (m n : Reg) : Prop :=
  aligned sz (s.reg n) = true ∧ s.mapped sz (s.reg n) = true ∧
    aligned sz (s.macSecond sz m n) = true ∧ s.mapped sz (s.macSecond sz m n) = true

/-- The product of the two data, each as other masters have left it when it is read. -/
def State.macProduct (s : State) (sz : Size) (m n : Reg) : Int :=
  (loadedValue s.arbitrate 0 sz (s.reg n)).toInt *
    (loadedValue s.arbitrate.arbitrate 1 sz (s.macSecond sz m n)).toInt

/-- Each register has advanced by the size, twice when they are one. -/
def MacAdvances (s : State) (sz : Size) (m n : Reg) (t : State) : Prop :=
  if m = n then t.reg n = s.reg n + 2 * sz.bytes else t.reg n = s.reg n + sz.bytes ∧ t.reg m = s.reg m + sz.bytes

/-- What MAC may write. -/
def macWrites (m n : Reg) : Writes := { regs := [m, n], mach := true, macl := true, inFlight := true, accesses := 2 }

/-- The address of the second operand, in the state the first read leaves. -/
theorem State.setReg_reg_eq_macSecond (s : State) (sz : Size) (m n : Reg) :
    (s.setReg n (s.reg n + sz.bytes)).reg m = s.macSecond sz m n := by
  simp [State.macSecond]

/-- Two readable operands reach the accumulation, with both registers advanced. -/
theorem macOperands_ok {f : State → Word → Word → Result} (hread : s.MacReadable sz m n) :
    macOperands s sz m n f = f (s.macAdvanced sz m n) (s.arbitrate.readValue 0 sz (s.reg n))
      (s.arbitrate.arbitrate.readValue 1 sz (s.macSecond sz m n)) := by
  obtain ⟨ha, hm, ha', hm'⟩ := hread
  rw [macOperands_of_first ha hm, readThen_ok ha' (by simpa using hm')]
  rfl

theorem State.macAdvanced_advances (s : State) (sz : Size) (m n : Reg) :
    MacAdvances s sz m n (s.macAdvanced sz m n) := by
  rw [MacAdvances, State.macAdvanced, s.setReg_reg_eq_macSecond, State.macSecond]
  split
  · next h => rw [two_mul, ← BitVec.add_assoc]; simp [h]
  · next h => simp [Ne.symm h]

theorem Frame.macAdvanced (s : State) (sz : Size) (m n : Reg) : Frame (macWrites m n) s (s.macAdvanced sz m n) :=
  ((Frame.two s rfl).setReg (List.mem_cons_of_mem m (List.mem_singleton.2 rfl)) _).setReg List.mem_cons_self _

/-- An instruction that reads MAC's operands and puts `acc` of the old pair, their product and S into the pair. -/
theorem completes_of_mac {acc : Word → Word → Int → Bool → BitVec 64} {sat : Bool} {result : State → Prop}
    (hrun : s.platform.stopMult = false) (hS : s.sBit = sat) (hcode : encode i = w)
    (hexec : exec i s = multiplierGuard s (macOperands s sz m n fun t a b => .next (t.setMac (acc t.mach t.macl
      ((loadExtend sz a).toInt * (loadExtend sz b).toInt) t.sBit)).multiplied.advance))
    (hread : s.MacReadable sz m n)
    (hresult : ∀ t : State, t.mac = acc s.mach s.macl (s.macProduct sz m n) sat → result t) :
    Completes w i s (macWrites m n) fun t => result t ∧ MacAdvances s sz m n t ∧ t.Noted := by
  refine ⟨decode_of_encode hcode, _, (hexec.trans (multiplierGuard_of_running hrun)).trans (macOperands_ok hread),
    sequential_advance rfl, (((Frame.macAdvanced s sz m n).setMac rfl rfl _).multiplied rfl).advance, hresult _ ?pair,
    s.macAdvanced_advances sz m n, rfl, rfl⟩
  case pair =>
    rw [State.advance_mac, State.multiplied_mac, State.setMac_mac, loadExtend_readValue, loadExtend_readValue, ← hS]
    rfl

/-- `completes_of_mac` for MAC.L, whose data are longwords as they are read. -/
theorem completes_macL {sat : Bool} {result : State → Prop} (hrun : s.platform.stopMult = false) (hS : s.sBit = sat)
    (hread : s.MacReadable .long m n)
    (hresult : ∀ t : State, t.mac = macLong (s.mach ++ s.macl) (s.macProduct .long m n) sat → result t) :
    Completes (codeNM 0b0000 n m 0b1111) (.macL m n) s (macWrites m n) fun t =>
      result t ∧ MacAdvances s .long m n t ∧ t.Noted :=
  completes_of_mac (acc := fun x y => macLong (x ++ y)) hrun hS rfl rfl hread hresult

/-- And for MAC.W, whose data are words, sign-extended. -/
theorem completes_macW {sat : Bool} {result : State → Prop} (hrun : s.platform.stopMult = false) (hS : s.sBit = sat)
    (hread : s.MacReadable .word m n)
    (hresult : ∀ t : State, t.mac = macWord s.mach s.macl (s.macProduct .word m n) sat → result t) :
    Completes (codeNM 0b0100 n m 0b1111) (.macW m n) s (macWrites m n) fun t =>
      result t ∧ MacAdvances s .word m n t ∧ t.Noted :=
  completes_of_mac (acc := macWord) hrun hS rfl rfl hread hresult

/-! ### Accumulation -/

/-- With S = 0 both accumulate modulo 2^64. -/
theorem ofInt_toInt_add (acc : BitVec 64) (p : Int) : BitVec.ofInt 64 (acc.toInt + p) = acc + BitVec.ofInt 64 p := by
  rw [BitVec.ofInt_add, BitVec.ofInt_toInt]

/-- Settles O37: MAC.L and MAC.W accumulate alike. -/
theorem macAccumulatesExactlyWithoutSaturation : Obligations.MacAccumulatesExactlyWithoutSaturation := by
  intro m n s hrun _ _ _ _ _ _ hS
  exact ⟨fun hread => completes_macL hrun hS hread fun _ h => h.trans (ofInt_toInt_add _ _),
    fun hread => completes_macW hrun hS hread fun _ h => h.trans (ofInt_toInt_add _ _)⟩

theorem clamp_eq_max_min {lo hi : Int} (h : lo ≤ hi) (v : Int) : clamp lo hi v = max lo (min hi v) := by
  rw [clamp]
  split
  · omega
  · split <;> omega

/-- With S = 1 MAC.L's sum is limited to the 48-bit range. -/
theorem macLong_saturated (acc : BitVec 64) (p : Int) :
    (macLong acc p true).toInt = max (-2 ^ 47) (min (2 ^ 47 - 1) (acc.toInt + p)) := by
  rw [macLong, if_pos rfl, clamp_eq_max_min (by decide)]
  exact BitVec.toInt_ofInt_eq_self (by decide) (by omega) (by omega)

/-- The halves of a pair. -/
theorem State.mac_eq_append {t : State} {x y : Word} (h : t.mac = x ++ y) : t.mach = x ∧ t.macl = y :=
  ⟨calc t.mach
    _ = t.mac.extractLsb' 32 32 := BitVec.extractLsb'_append_eq_left.symm
    _ = x := h ▸ BitVec.extractLsb'_append_eq_left,
  calc t.macl
    _ = t.mac.extractLsb' 0 32 := BitVec.extractLsb'_append_eq_right.symm
    _ = y := h ▸ BitVec.extractLsb'_append_eq_right⟩

/-- What MAC.W leaves with S = 1 (R194, D18): the sum in MACL, or a limit with bit 0 of MACH set. -/
def MacWordLimited (s t : State) (sum : Int) : Prop :=
  if sum < -2 ^ 31 then t.macl = 0x80000000 ∧ t.mach = s.mach ||| 1
  else if 2 ^ 31 - 1 < sum then t.macl = 0x7FFFFFFF ∧ t.mach = s.mach ||| 1
  else t.macl.toInt = sum ∧ t.mach = s.mach

theorem macWordLimited_of_mac {t : State} {p : Int} (h : t.mac = macWordSaturated s.mach s.macl p) :
    MacWordLimited s t (s.macl.toInt + p) := by
  unfold macWordSaturated at h
  unfold MacWordLimited
  generalize s.macl.toInt + p = sum at h ⊢
  split
  · next hlow =>
    rw [if_neg (by omega), if_pos (by omega)] at h
    exact (State.mac_eq_append h).symm
  · split
    · next hhigh =>
      rw [if_neg (by omega), if_neg (by omega)] at h
      exact (State.mac_eq_append h).symm
    · rw [if_pos (by omega)] at h
      obtain ⟨hmach, hmacl⟩ := State.mac_eq_append h
      exact ⟨hmacl ▸ BitVec.toInt_ofInt_eq_self (by decide) (by omega) (by omega), hmach⟩

/-- Settles O38: MAC.L by the 48-bit limit, MAC.W by the three cases of its sum. -/
theorem macSaturatesWithTheSBit : Obligations.MacSaturatesWithTheSBit := by
  intro m n s hrun _ _ _ _ _ _ hS
  exact ⟨fun hread => completes_macL hrun hS hread fun _ h =>
      (congrArg BitVec.toInt h).trans (macLong_saturated _ _),
    fun hread => completes_macW hrun hS hread fun _ h => macWordLimited_of_mac h⟩

end Sys2Proof.Machine
end

section
/-! The logic instructions on registers and the tests (R210 to R222; 42_logic.md): each bitwise operation puts one value into
its register, each test puts the zero test of a conjunction into T. -/

namespace Sys2Proof.Machine

variable {imm : BitVec 8} {s : State}

/-! ### AND, OR, XOR and NOT -/

/-- Settles O40: each of the seven puts one value into its register. -/
theorem registerLogicWritesOnlyItsDestination : Obligations.RegisterLogicWritesOnlyItsDestination := by
  intro imm m n s
  exact ⟨completes_of_setReg rfl rfl fun _ h => h, completes_of_setReg rfl rfl fun _ h => h,
    completes_of_setReg rfl rfl fun _ h => h, completes_of_setReg rfl rfl fun _ h => h,
    completes_of_setReg rfl rfl fun _ h => h, completes_of_setReg rfl rfl fun _ h => h,
    completes_of_setReg rfl rfl fun _ h => h⟩

/-! ### TST -/

/-- The zero-extended bytes have a bit in common where the bytes have one (R220). -/
theorem setWidth_and_immUnsigned_eq_zero_iff (b : Byte) (imm : BitVec 8) :
    b.setWidth 32 &&& immUnsigned imm = 0 ↔ b &&& imm = 0 := by
  rw [immUnsigned, ← BitVec.setWidth_and]
  exact setWidth_eq_zero_iff _

theorem execTstB_ok (hm : s.mapped .byte (eaGbrIndexed s) = true) :
    execTstB imm s =
      putZeroTest s.arbitrate ((s.arbitrate.byteAt 0 (eaGbrIndexed s)).setWidth 32 &&& immUnsigned imm) :=
  readThen_ok rfl hm

theorem execTstB_absent (hm : s.mapped .byte (eaGbrIndexed s) = false) :
    execTstB imm s = .fault .absentAddress := readThen_absent rfl hm

/-- T is the zero test of the byte as other masters have left it when it is read. -/
theorem tstB_completes (hm : s.mapped .byte (eaGbrIndexed s) = true) :
    Completes (codeI 0b11001100 imm) (.tstB imm) s { srBits := [bitT], accesses := 1 } fun t =>
      t.t = true ↔ s.arbitrate.byteAt 0 (eaGbrIndexed s) &&& imm = 0 := by
  refine ⟨decode_of_encode rfl, _, execTstB_ok hm, sequential_advance rfl, ?frame, ?flag⟩
  case frame => exact ((Frame.one s rfl).setT (List.mem_singleton.2 rfl) _).advance
  case flag =>
    dsimp only
    rw [State.advance_t, State.setT_t, beq_iff_eq]
    exact setWidth_and_immUnsigned_eq_zero_iff _ _

/-- Settles O42: the register forms by the zero test put into T, TST.B by its one read. -/
theorem testsWriteOnlyTheTBit : Obligations.TestsWriteOnlyTheTBit := by
  intro imm m n s
  exact ⟨completes_of_test rfl rfl beq_iff_eq, completes_of_test rfl rfl beq_iff_eq, tstB_completes,
    fun _ hm => execTstB_absent hm⟩

end Sys2Proof.Machine
end

section
/-! The shift instructions (R230 to R244; 43_shift.md): what one place left or right is with a bit entering at the
vacated end, and then each instruction by the bit it lets in. -/

namespace Sys2Proof.Machine

variable {i : Instr} {w : Half} {s : State} {n : Reg} {v : Word}

/-! ### One place left or right -/

theorem flagWord_eq_append (b : Bool) : flagWord b = 0#31 ++ BitVec.ofBool b := by cases b <;> rfl

theorem flagWord_shiftLeft_eq_append (b : Bool) : flagWord b <<< 31 = BitVec.ofBool b ++ 0#31 := by cases b <;> rfl

/-- Bits 30 to 0 move up and the flag enters below. -/
theorem shiftLeft_or_flagWord_eq_append (x : Word) (b : Bool) :
    x <<< 1 ||| flagWord b = x.extractLsb' 0 31 ++ BitVec.ofBool b := by
  have hmoved : x <<< 1 = x.extractLsb' 0 31 ++ 0#1 := BitVec.shiftLeft_eq_concat_of_lt (by decide)
  calc x <<< 1 ||| flagWord b
    _ = (x.extractLsb' 0 31 ++ 0#1) ||| (0#31 ++ BitVec.ofBool b) := by rw [hmoved, flagWord_eq_append]
    _ = (x.extractLsb' 0 31 ||| 0#31) ++ (0#1 ||| BitVec.ofBool b) := BitVec.or_append
    _ = x.extractLsb' 0 31 ++ BitVec.ofBool b := by rw [BitVec.or_zero, BitVec.zero_or]

/-- Bits 31 to 1 move down and the flag enters above. -/
theorem ushiftRight_or_flagWord_eq_append (x : Word) (b : Bool) :
    x >>> 1 ||| flagWord b <<< 31 = BitVec.ofBool b ++ x.extractLsb' 1 31 := by
  have hmoved : x >>> 1 = 0#1 ++ x.extractLsb' 1 31 := BitVec.ushiftRight_eq_extractLsb'_of_lt (by decide)
  calc x >>> 1 ||| flagWord b <<< 31
    _ = (0#1 ++ x.extractLsb' 1 31) ||| (BitVec.ofBool b ++ 0#31) := by rw [hmoved, flagWord_shiftLeft_eq_append]
    _ = (0#1 ||| BitVec.ofBool b) ++ (x.extractLsb' 1 31 ||| 0#31) := BitVec.or_append
    _ = BitVec.ofBool b ++ x.extractLsb' 1 31 := by rw [BitVec.or_zero, BitVec.zero_or]

theorem extractLsb'_one_eq_ofBool (x : Word) (k : Nat) : x.extractLsb' k 1 = BitVec.ofBool (x.getLsbD k) := by
  ext j hj
  obtain rfl : j = 0 := Nat.lt_one_iff.1 hj
  simp

/-- Rotating left lets the MSB in below (R230). -/
theorem rotateLeft_one_eq (x : Word) : x.rotateLeft 1 = x <<< 1 ||| flagWord x.msb := by
  have hout : x >>> 31 = flagWord x.msb :=
    calc x >>> 31
      _ = 0#31 ++ x.extractLsb' 31 1 := BitVec.ushiftRight_eq_extractLsb'_of_lt (by decide)
      _ = flagWord x.msb := by rw [extractLsb'_one_eq_ofBool, flagWord_eq_append, BitVec.msb_eq_getLsbD_last]
  rw [BitVec.rotateLeft_def, ← hout]

/-- Rotating right lets the LSB in above (R231). -/
theorem rotateRight_one_eq (x : Word) : x.rotateRight 1 = x >>> 1 ||| flagWord (x.getLsbD 0) <<< 31 := by
  have hout : x <<< 31 = flagWord (x.getLsbD 0) <<< 31 :=
    calc x <<< 31
      _ = x.extractLsb' 0 1 ++ 0#31 := BitVec.shiftLeft_eq_concat_of_lt (by decide)
      _ = flagWord (x.getLsbD 0) <<< 31 := by rw [extractLsb'_one_eq_ofBool, flagWord_shiftLeft_eq_append]
  rw [BitVec.rotateRight_def, ← hout]

/-- With the sign bit entering above, one place right is the arithmetic shift. -/
theorem ushiftRight_or_msb_eq_sshiftRight (x : Word) : x >>> 1 ||| flagWord x.msb <<< 31 = x.sshiftRight 1 := by
  ext j hj
  obtain rfl | hlow : j = 31 ∨ j < 31 := by omega
  · simp [flagWord, BitVec.getElem_sshiftRight]
  · have hnext : 1 + j < 32 := by omega
    simp [flagWord, BitVec.getElem_sshiftRight, hlow, hnext]

/-- The arithmetic shift by one place is the floor of half the signed value (R235). -/
theorem sshiftRight_one_eq_half (x : Word) : x.sshiftRight 1 = BitVec.ofInt 32 (x.toInt / 2) := by
  rw [← BitVec.ofInt_toInt (x := x.sshiftRight 1), BitVec.toInt_sshiftRight, Int.shiftRight_eq_div_pow]
  rfl

/-! ### The one-bit shifts and rotates -/

/-- An instruction that is `shiftLeftOne` puts the shifted register and the old bit 31 (R244). -/
theorem completes_of_shiftLeftOne {enter : Bool} (hcode : encode i = w) (hexec : exec i s = shiftLeftOne s n enter)
    (hvalue : s.reg n <<< 1 ||| flagWord enter = v) :
    Completes w i s { regs := [n], srBits := [bitT] } fun t => t.reg n = v ∧ t.t = (s.reg n).getLsbD 31 :=
  completes_of_setReg_setT hcode hexec fun _ h ht => ⟨h.trans hvalue, ht.trans (BitVec.msb_eq_getLsbD_last _)⟩

/-- And one that is `shiftRightOne` the old bit 0. -/
theorem completes_of_shiftRightOne {enter : Bool} (hcode : encode i = w) (hexec : exec i s = shiftRightOne s n enter)
    (hvalue : s.reg n >>> 1 ||| flagWord enter <<< 31 = v) :
    Completes w i s { regs := [n], srBits := [bitT] } fun t => t.reg n = v ∧ t.t = (s.reg n).getLsbD 0 :=
  completes_of_setReg_setT hcode hexec fun _ h ht => ⟨h.trans hvalue, ht⟩

/-- Settles O44: each of the eight by the bit that enters. -/
theorem oneBitShiftsPutTheBitShiftedOutIntoT : Obligations.OneBitShiftsPutTheBitShiftedOutIntoT := by
  intro n s
  refine ⟨completes_of_shiftLeftOne rfl rfl ?rotl, completes_of_shiftRightOne rfl rfl ?rotr,
    completes_of_shiftLeftOne rfl rfl ?rotcl, completes_of_shiftRightOne rfl rfl ?rotcr,
    completes_of_shiftLeftOne rfl rfl ?shal, completes_of_shiftRightOne rfl rfl ?shar,
    completes_of_shiftLeftOne rfl rfl ?shll, completes_of_shiftRightOne rfl rfl ?shlr⟩
  case rotl => exact (rotateLeft_one_eq _).symm
  case rotr => exact (rotateRight_one_eq _).symm
  case rotcl => exact shiftLeft_or_flagWord_eq_append _ s.t
  case rotcr => exact ushiftRight_or_flagWord_eq_append _ s.t
  case shal => exact shiftLeft_or_flagWord_eq_append _ false
  case shar => exact (ushiftRight_or_msb_eq_sshiftRight _).trans (sshiftRight_one_eq_half _)
  case shll => exact shiftLeft_or_flagWord_eq_append _ false
  case shlr => exact ushiftRight_or_flagWord_eq_append _ false

/-! ### The shifts by 2, 8 and 16 places -/

/-- An instruction that is `putShifted` of a left shift multiplies (R238, R240, R242). -/
theorem completes_of_putShifted_left {k : Nat} (hcode : encode i = w)
    (hexec : exec i s = putShifted s n (s.reg n <<< k)) :
    Completes w i s { regs := [n] } fun t => (t.reg n).toNat = (s.reg n).toNat * 2 ^ k % 2 ^ 32 :=
  completes_of_setReg hcode hexec fun _ h => by rw [h, BitVec.toNat_shiftLeft, Nat.shiftLeft_eq]

/-- And one of a right shift divides (R239, R241, R243). -/
theorem completes_of_putShifted_right {k : Nat} (hcode : encode i = w)
    (hexec : exec i s = putShifted s n (s.reg n >>> k)) :
    Completes w i s { regs := [n] } fun t => (t.reg n).toNat = (s.reg n).toNat / 2 ^ k :=
  completes_of_setReg hcode hexec fun _ h => by rw [h, BitVec.toNat_ushiftRight, Nat.shiftRight_eq_div_pow]

/-- Settles O45: the six alternate between the product and the quotient. -/
theorem multiBitShiftsAreLogicalAndLeaveT : Obligations.MultiBitShiftsAreLogicalAndLeaveT := by
  intro n s
  exact ⟨completes_of_putShifted_left rfl rfl, completes_of_putShifted_right rfl rfl,
    completes_of_putShifted_left rfl rfl, completes_of_putShifted_right rfl rfl,
    completes_of_putShifted_left rfl rfl, completes_of_putShifted_right rfl rfl⟩

end Sys2Proof.Machine
end

section
/-! The branch instructions (R250 to R270; 44_branch.md): what the guard of R253 makes of each in a delay slot, and
outside one where control goes, at once (R251) or by the delayed branch it arms. -/

namespace Sys2Proof.Machine

variable {i : Instr} {w : Half} {s : State} {target dest : Word} {taken : Bool}

/-! ### The guard of R253 -/

theorem notInSlot_outside {r : Result} (h : s.delay = none) : notInSlot s r = r := by
  simp [notInSlot, h]

theorem notInSlot_inSlot {r : Result} (h : s.delay = some target) :
    notInSlot s r = exceptionEntry s vecSlotIllegal target none := by
  simp [notInSlot, h]

/-- Every instruction of R253's list stands under its guard. -/
theorem exec_eq_notInSlot (hi : i.isBranchClass = true) (s : State) : ∃ r, exec i s = notInSlot s r := by
  cases i with
  | bf | bfS | bt | btS | bra | braf | bsr | bsrf | jmp | jsr | rts | rte | trapa => exact ⟨_, rfl⟩
  | _ => exact absurd hi Bool.false_ne_true

/-- Settles O8: in a slot the guard is all that the instruction does. -/
theorem branchClassInDelaySlotIsSlotIllegal : Obligations.BranchClassInDelaySlotIsSlotIllegal := by
  intro i s target hi hs
  obtain ⟨r, hexec⟩ := exec_eq_notInSlot hi s
  exact hexec.trans (notInSlot_inSlot hs)

/-! ### Targets (R250) -/

/-- Twice a sign-extended displacement is twice its signed value. -/
theorem signExtend_shiftLeft_one {k : Nat} (d : BitVec k) :
    d.signExtend 32 <<< 1 = BitVec.ofInt 32 (2 * d.toInt) := by
  rw [BitVec.shiftLeft_eq_mul_twoPow, BitVec.mul_comm, BitVec.ofInt_mul]
  rfl

theorem target8_eq (s : State) (d : BitVec 8) : target8 s d = s.pc + 4 + BitVec.ofInt 32 (2 * d.toInt) :=
  congrArg (s.pcValue + ·) (signExtend_shiftLeft_one d)

theorem target12_eq (s : State) (d : BitVec 12) : target12 s d = s.pc + 4 + BitVec.ofInt 32 (2 * d.toInt) :=
  congrArg (s.pcValue + ·) (signExtend_shiftLeft_one d)

/-! ### Branches at once: BF and BT -/

/-- Outside a slot an instruction that is `branchAtOnce` sets pc and nothing else. -/
theorem branchesTo_of_branchAtOnce {pc : Word} (hcode : encode i = w) (hs : s.delay = none)
    (hexec : exec i s = notInSlot s (branchAtOnce s taken target))
    (hpc : (if taken then target else s.pc + 2) = pc) : BranchesTo w i s pc none {} fun _ => True :=
  ⟨decode_of_encode hcode, _, hexec.trans (notInSlot_outside hs), hpc, hs, (Frame.refl s rfl).setPc _, trivial⟩

/-- Settles O46: BF is taken when T = 0, BT when T = 1. -/
theorem plainConditionalBranchesGoAtOnce : Obligations.PlainConditionalBranchesGoAtOnce := by
  intro d s hs
  refine ⟨branchesTo_of_branchAtOnce rfl hs rfl ?bf, branchesTo_of_branchAtOnce rfl hs rfl ?bt⟩
  case bf => rw [target8_eq]; cases s.t <;> rfl
  case bt => rw [target8_eq]

/-! ### Delayed branches -/

/-- Outside a slot an instruction that only arms a delayed branch. -/
theorem branchesTo_of_branchDelayed (hcode : encode i = w) (hs : s.delay = none)
    (hexec : exec i s = notInSlot s (.next (s.branchDelayed target))) (htarget : target = dest) :
    BranchesTo w i s (s.pc + 2) (some dest) {} fun _ => True :=
  ⟨decode_of_encode hcode, _, hexec.trans (notInSlot_outside hs), rfl, congrArg some htarget,
    (Frame.refl s rfl).branchDelayed target, trivial⟩

/-- And one that leaves the address after its slot in PR too (R259). -/
theorem branchesTo_of_link (hcode : encode i = w) (hs : s.delay = none)
    (hexec : exec i s = notInSlot s (.next (s.link.branchDelayed target))) (htarget : target = dest) :
    BranchesTo w i s (s.pc + 2) (some dest) { pr := true } fun t => t.pr = s.pc + 4 :=
  ⟨decode_of_encode hcode, _, hexec.trans (notInSlot_outside hs), rfl, congrArg some htarget,
    ((Frame.refl s rfl).link rfl).branchDelayed target, rfl⟩

/-- Settles O48: four only arm their branch, the three calls set PR as well. -/
theorem unconditionalDelayedBranches : Obligations.UnconditionalDelayedBranches := by
  intro d m s hs
  exact ⟨branchesTo_of_branchDelayed rfl hs rfl (target12_eq s d), branchesTo_of_branchDelayed rfl hs rfl rfl,
    branchesTo_of_link rfl hs rfl (target12_eq s d), branchesTo_of_link rfl hs rfl rfl,
    branchesTo_of_branchDelayed rfl hs rfl rfl, branchesTo_of_link rfl hs rfl rfl,
    branchesTo_of_branchDelayed rfl hs rfl rfl⟩

/-! ### Delayed conditional branches: BF/S and BT/S -/

/-- The look at the next word finds a branch exactly when an instruction of R253's list follows (R256). -/
theorem branchFollows_iff : s.branchFollows = true ↔ ∃ j, FollowedBy s j ∧ j.isBranchClass = true := by
  unfold State.branchFollows FollowedBy
  constructor
  · intro h
    dsimp only at h
    split at h
    case isTrue hm =>
      split at h
      case h_1 j hj => exact ⟨j, ⟨hm, hj⟩, h⟩
      case h_2 => cases h
    case isFalse => cases h
  · rintro ⟨j, ⟨hm, hj⟩, hb⟩
    simp only [hm, hj, hb, if_true]

theorem branchConditionalDelayed_taken (ht : taken = true) :
    branchConditionalDelayed s taken target = .next (s.branchDelayed target) := by
  simp [branchConditionalDelayed, ht]

theorem branchConditionalDelayed_untaken (ht : taken = false) (hf : s.branchFollows = false) :
    branchConditionalDelayed s taken target = .next { s with pc := s.pc + 2 } := by
  simp [branchConditionalDelayed, ht, hf]

theorem branchConditionalDelayed_beforeBranch (ht : taken = false) (hf : s.branchFollows = true) :
    branchConditionalDelayed s taken target = .refused .branchAfterUntakenDelayedBranch := by
  simp [branchConditionalDelayed, ht, hf]

/-- Outside a slot an instruction that is `branchConditionalDelayed` arms its branch, or goes on to a word that is no
branch, or is refused before one. -/
theorem delayedConditionalBranch_rule (hcode : encode i = w) (hs : s.delay = none)
    (hexec : exec i s = notInSlot s (branchConditionalDelayed s taken target)) (htarget : target = dest) :
    (taken = true → BranchesTo w i s (s.pc + 2) (some dest) {} fun _ => True) ∧
    (taken = false → (∀ j, FollowedBy s j → j.isBranchClass = false) →
      BranchesTo w i s (s.pc + 2) none {} fun _ => True) ∧
    (taken = false → ∀ j, FollowedBy s j → j.isBranchClass = true →
      exec i s = .refused .branchAfterUntakenDelayedBranch) := by
  have houtside := hexec.trans (notInSlot_outside hs)
  refine ⟨fun ht => ?taken, fun ht hno => ?untaken, fun ht j hj hb => ?refused⟩
  case taken =>
    exact branchesTo_of_branchDelayed hcode hs (hexec.trans (congrArg _ (branchConditionalDelayed_taken ht))) htarget
  case untaken =>
    have hf : s.branchFollows = false := by
      refine Bool.eq_false_iff.2 fun hf => ?_
      obtain ⟨j, hj, hb⟩ := branchFollows_iff.1 hf
      exact Bool.false_ne_true ((hno j hj).symm.trans hb)
    exact ⟨decode_of_encode hcode, _, houtside.trans (branchConditionalDelayed_untaken ht hf), rfl, hs,
      (Frame.refl s rfl).setPc _, trivial⟩
  case refused =>
    exact houtside.trans (branchConditionalDelayed_beforeBranch ht (branchFollows_iff.2 ⟨j, hj, hb⟩))

/-- Settles O47: BF/S is taken when T = 0, BT/S when T = 1. -/
theorem delayedConditionalBranches : Obligations.DelayedConditionalBranches := by
  intro d s hs
  exact ⟨delayedConditionalBranch_rule rfl hs rfl (target8_eq s d),
    delayedConditionalBranch_rule rfl hs rfl (target8_eq s d)⟩

end Sys2Proof.Machine
end

section
/-! The refusals of `exec` (R254, R256, R384): every instruction stands under one of three guards that refuse, or never
refuses. -/

namespace Sys2Proof.Machine

variable {i : Instr} {s : State}

/-! ### Operations that never refuse -/

/-- The result is a next state or a fault. -/
def NeverRefuses (r : Result) : Prop := ∀ q, r ≠ .refused q

theorem neverRefuses_next (t : State) : NeverRefuses (.next t) := nofun

theorem neverRefuses_fault (f : Fault) : NeverRefuses (.fault f) := nofun

theorem exceptionEntry_neverRefuses (s : State) (v : BitVec 8) (savedPc : Word) (level : Option (BitVec 4)) :
    NeverRefuses (exceptionEntry s v savedPc level) := by
  obtain ⟨t, h⟩ | h := exceptionEntry_cases s v savedPc level <;> rw [h]
  · exact neverRefuses_next t
  · exact neverRefuses_fault _

theorem addressErrorEntry_neverRefuses (s : State) : NeverRefuses (addressErrorEntry s) :=
  exceptionEntry_neverRefuses _ _ _ _

/-- An access refuses nothing of its own. -/
theorem readThen_neverRefuses {k : Nat} {sz : Size} {a : Word} {err : State} {f : State → Word → Result}
    (hf : ∀ t v, NeverRefuses (f t v)) : NeverRefuses (readThen s k sz a err f) := by
  unfold readThen
  split
  · exact hf _ _
  · exact addressErrorEntry_neverRefuses err
  · exact neverRefuses_fault _

theorem writeHeld_neverRefuses {sz : Size} {a v : Word} {err : State} {f : State → Result}
    (hf : ∀ t, NeverRefuses (f t)) : NeverRefuses (writeHeld s sz a v err f) := by
  unfold writeHeld
  split
  · exact hf _
  · exact addressErrorEntry_neverRefuses err
  · exact neverRefuses_fault _

/-- A read after which the instruction completes. -/
theorem read_neverRefuses {k : Nat} {sz : Size} {a : Word} {err : State} {f : State → Word → State} :
    NeverRefuses (readThen s k sz a err fun t v => .next (f t v)) :=
  readThen_neverRefuses fun _ _ => neverRefuses_next _

/-- A write after which it does. -/
theorem write_neverRefuses {sz : Size} {a v : Word} {err : State} {f : State → State} :
    NeverRefuses (writeThen s sz a v err fun t => .next (f t)) :=
  writeHeld_neverRefuses fun _ => neverRefuses_next _

theorem loadInto_neverRefuses {sz : Size} {a : Word} {n : Reg} : NeverRefuses (loadInto s sz a n) :=
  read_neverRefuses

theorem loadIncInto_neverRefuses {sz : Size} {m n : Reg} : NeverRefuses (loadIncInto s sz m n) :=
  read_neverRefuses

theorem loadSystem_neverRefuses {m : Reg} {put : State → Word → State} : NeverRefuses (loadSystem s m put) :=
  read_neverRefuses

theorem execLdcLSr_neverRefuses (m : Reg) : NeverRefuses (execLdcLSr m s) := by
  rw [execLdcLSr_eq]
  exact read_neverRefuses

theorem execTstB_neverRefuses (imm : BitVec 8) : NeverRefuses (execTstB imm s) :=
  readThen_neverRefuses fun _ _ => neverRefuses_next _

theorem modifyByte_neverRefuses (f : Word → Word) : NeverRefuses (modifyByte s f) :=
  readThen_neverRefuses fun _ _ => write_neverRefuses

theorem execTasB_neverRefuses (n : Reg) : NeverRefuses (execTasB n s) :=
  readThen_neverRefuses fun _ _ => writeHeld_neverRefuses fun _ => neverRefuses_next _

theorem macOperands_neverRefuses {sz : Size} {m n : Reg} {f : State → Word → Word → State} :
    NeverRefuses (macOperands s sz m n fun t a b => .next (f t a b)) := by
  dsimp only [macOperands]
  exact readThen_neverRefuses fun _ _ => read_neverRefuses

theorem returnFromException_neverRefuses : NeverRefuses (returnFromException s) := by
  dsimp only [returnFromException]
  exact readThen_neverRefuses fun _ _ => read_neverRefuses

/-- The guard of R253 raises an exception, so it refuses only what it passes on. -/
theorem notInSlot_neverRefuses {r : Result} (h : NeverRefuses r) : NeverRefuses (notInSlot s r) := by
  unfold notInSlot
  split
  · exact h
  · exact exceptionEntry_neverRefuses _ _ _ _

/-! ### The three guards that refuse -/

theorem multiplierGuard_of_stopped {r : Result} (h : s.platform.stopMult = true) :
    multiplierGuard s r = .refused .multiplierInModuleStandby := by
  simp [multiplierGuard, h]

theorem multiplierGuard_refused {r : Result} {q : Refusal} (hr : NeverRefuses r)
    (h : multiplierGuard s r = .refused q) : q = .multiplierInModuleStandby ∧ s.platform.stopMult = true := by
  unfold multiplierGuard at h
  split at h
  · next hm => exact ⟨(Host.Outcome.refused.inj h).symm, hm⟩
  · exact absurd h (hr q)

theorem pcOperandGuard_refused {r : Result} {q : Refusal} (hr : NeverRefuses r)
    (h : pcOperandGuard s r = .refused q) : q = .pcRelativeInDelaySlot ∧ s.delay ≠ none := by
  unfold pcOperandGuard at h
  split at h
  · exact absurd h (hr q)
  · next hd => exact ⟨(Host.Outcome.refused.inj h).symm, by simp [hd]⟩

theorem notInSlot_refused {r : Result} {q : Refusal} (h : notInSlot s r = .refused q) :
    s.delay = none ∧ r = .refused q := by
  unfold notInSlot at h
  split at h
  · next hd => exact ⟨hd, h⟩
  · exact absurd h (exceptionEntry_neverRefuses _ _ _ _ q)

theorem branchConditionalDelayed_refused {taken : Bool} {target : Word} {q : Refusal}
    (h : branchConditionalDelayed s taken target = .refused q) :
    q = .branchAfterUntakenDelayedBranch ∧ taken = false ∧ s.branchFollows = true := by
  unfold branchConditionalDelayed at h
  split at h
  · cases h
  · next ht =>
    split at h
    · next hf => exact ⟨(Host.Outcome.refused.inj h).symm, by simpa using ht, hf⟩
    · cases h

/-! ### Every instruction -/

/-- `taken` is the condition under which `i`, a delayed conditional branch, branches (R261, R263). -/
def BranchesWhen (i : Instr) (s : State) (taken : Bool) : Prop :=
  (∃ d, i = .bfS d ∧ taken = !s.t) ∨ (∃ d, i = .btS d ∧ taken = s.t)

/-- `i`, executed in `s`, is one of these: what can refuse in it is its guard, or the look at the next word. -/
inductive Guarded (i : Instr) (s : State) : Result → Prop where
  /-- Nothing refuses. -/
  | free {r : Result} (hi : i.usesMultiplier = false) (hr : NeverRefuses r) : Guarded i s r
  /-- The multiplier and the accumulator (R384). -/
  | multiplier {r : Result} (hi : i.usesMultiplier = true) (hr : NeverRefuses r) : Guarded i s (multiplierGuard s r)
  /-- A PC-relative data operand (R254). -/
  | pcOperand {r : Result} (hi : i.usesMultiplier = false) (hp : i.hasPcOperand = true) (hr : NeverRefuses r) :
      Guarded i s (pcOperandGuard s r)
  /-- BF/S or BT/S (R256). -/
  | conditional {taken : Bool} {target : Word} (hi : i.usesMultiplier = false) (hc : BranchesWhen i s taken) :
      Guarded i s (notInSlot s (branchConditionalDelayed s taken target))

/-- Every instruction is one of the four; instructions of one shared operation stand together. -/
theorem exec_guarded (i : Instr) (s : State) : Guarded i s (exec i s) := by
  cases i with
  | movImm | mov | movt | swapB | swapW | xtrct | addR | addImm | addc | addv | cmpEqImm | cmpEq | cmpHs | cmpGe |
    cmpHi | cmpGt | cmpPz | cmpPl | cmpStr | div1 | div0s | div0u | dt | extsB | extsW | extuB | extuW | neg | negc |
    subR | subc | subv | andR | andImm | notR | orR | orImm | tstR | tstImm | xorR | xorImm | rotl | rotr | rotcl |
    rotcr | shal | shar | shll | shlr | shll2 | shlr2 | shll8 | shlr8 | shll16 | shlr16 | clrt | sett | nop | sleep |
    ldcSr | ldcGbr | ldcVbr | ldsPr | stcSr | stcGbr | stcVbr | stsPr => exact .free rfl (neverRefuses_next _)
  | movBLoad | movWLoad | movLLoad | movBLoadDisp | movWLoadDisp | movLLoadDisp | movBLoadIdx | movWLoadIdx |
    movLLoadIdx | movBLoadGbr | movWLoadGbr | movLLoadGbr => exact .free rfl loadInto_neverRefuses
  | movBLoadInc | movWLoadInc | movLLoadInc => exact .free rfl loadIncInto_neverRefuses
  | ldcLGbr | ldcLVbr | ldsLPr => exact .free rfl loadSystem_neverRefuses
  | ldcLSr m => exact .free rfl (execLdcLSr_neverRefuses m)
  | tstB imm => exact .free rfl (execTstB_neverRefuses imm)
  | movBStore | movWStore | movLStore | movBStoreDec | movWStoreDec | movLStoreDec | movBStoreDisp | movWStoreDisp |
    movLStoreDisp | movBStoreIdx | movWStoreIdx | movLStoreIdx | movBStoreGbr | movWStoreGbr | movLStoreGbr | stcLSr |
    stcLGbr | stcLVbr | stsLPr => exact .free rfl write_neverRefuses
  | andB | orB | xorB => exact .free rfl (modifyByte_neverRefuses _)
  | tasB n => exact .free rfl (execTasB_neverRefuses n)
  | bf | bt | bra | braf | bsr | bsrf | jmp | jsr | rts =>
    exact .free rfl (notInSlot_neverRefuses (neverRefuses_next _))
  | rte => exact .free rfl (notInSlot_neverRefuses returnFromException_neverRefuses)
  | trapa => exact .free rfl (notInSlot_neverRefuses (exceptionEntry_neverRefuses _ _ _ _))
  | dmulsL | dmuluL | mulL | mulsW | muluW | clrmac | ldsMach | ldsMacl | stsMach | stsMacl =>
    exact .multiplier rfl (neverRefuses_next _)
  | macL | macW => exact .multiplier rfl macOperands_neverRefuses
  | ldsLMach | ldsLMacl => exact .multiplier rfl loadSystem_neverRefuses
  | stsLMach | stsLMacl => exact .multiplier rfl write_neverRefuses
  | movWPc | movLPc => exact .pcOperand rfl rfl loadInto_neverRefuses
  | mova => exact .pcOperand rfl rfl (neverRefuses_next _)
  | bfS d => exact .conditional rfl (.inl ⟨d, rfl, rfl⟩)
  | btS d => exact .conditional rfl (.inr ⟨d, rfl, rfl⟩)

/-- The multiplier's list is refused while MULT is stopped (R384). -/
theorem Guarded.refused_of_stopped {r : Result} (h : Guarded i s r) (hi : i.usesMultiplier = true)
    (hstop : s.platform.stopMult = true) : r = .refused .multiplierInModuleStandby := by
  cases h with
  | multiplier => exact multiplierGuard_of_stopped hstop
  | free hno | pcOperand hno | conditional hno => exact absurd (hno.symm.trans hi) Bool.false_ne_true

/-- A delayed conditional branch that does not branch is BF/S with T = 1 or BT/S with T = 0. -/
theorem BranchesWhen.untaken (h : BranchesWhen i s false) :
    (∃ d, i = .bfS d ∧ s.t = true) ∨ (∃ d, i = .btS d ∧ s.t = false) := by
  obtain ⟨d, hi, ht⟩ | ⟨d, hi, ht⟩ := h
  · exact .inl ⟨d, hi, by simpa using ht⟩
  · exact .inr ⟨d, hi, ht.symm⟩

/-- Settles O60: of the four kinds of instruction three can refuse, each by its own name. -/
theorem refusalsOfExecAreTheSpecsThree : Obligations.RefusalsOfExecAreTheSpecsThree := by
  intro i s
  have hguarded := exec_guarded i s
  refine ⟨hguarded.refused_of_stopped, fun q hq => ?_⟩
  generalize exec i s = r at hguarded hq
  cases hguarded with
  | free _ hr => exact absurd hq (hr q)
  | multiplier hi hr =>
    obtain ⟨hname, hstop⟩ := multiplierGuard_refused hr hq
    exact .inl ⟨hname, hi, hstop⟩
  | pcOperand _ hp hr =>
    obtain ⟨hname, hslot⟩ := pcOperandGuard_refused hr hq
    exact .inr (.inl ⟨hname, hp, hslot⟩)
  | conditional _ hc =>
    obtain ⟨hs, hq⟩ := notInSlot_refused hq
    obtain ⟨hname, rfl, hf⟩ := branchConditionalDelayed_refused hq
    exact .inr (.inr ⟨hname, hs, branchFollows_iff.1 hf, hc.untaken⟩)

end Sys2Proof.Machine
end

section
/-! Exception entry (R330, R339): the state it leaves, and that it can be made exactly where the stack and the vector are
accessible. -/

namespace Sys2Proof.Machine

variable {s t u : State} {v : BitVec 8} {savedPc : Word} {level : Option (BitVec 4)}

/-! ### Where it can be made -/

/-- A multiple of 4 changes nothing about the alignment of a longword. -/
theorem aligned_long_add {b : Word} (hb : aligned .long b = true) (a : Word) :
    aligned .long (a + b) = aligned .long a := by
  simp only [aligned, beq_iff_eq, BitVec.toNat_add] at hb ⊢
  congr 1
  omega

theorem aligned_long_push (a : Word) :
    aligned .long (a - 4) = aligned .long a ∧ aligned .long (a - 8) = aligned .long a := by
  rw [BitVec.sub_eq_add_neg, BitVec.sub_eq_add_neg]
  exact ⟨aligned_long_add (by decide) a, aligned_long_add (by decide) a⟩

theorem aligned_long_vector (a : Word) (v : BitVec 8) :
    aligned .long (a + v.setWidth 32 * 4) = aligned .long a := by
  refine aligned_long_add ?_ a
  simp only [aligned, beq_iff_eq, BitVec.toNat_mul, BitVec.reduceToNat]
  omega

/-- The state after entry: the two pushes, then the change of R15, SR, pc, the pending slot and the mode. -/
def State.enter (s : State) (v : BitVec 8) (savedPc : Word) (level : Option (BitVec 4)) : State :=
  { (s.pushFrame savedPc).arbitrate.setReg 15 (s.reg 15 - 8) with
      sr := level.elim s.sr (srWithMask s.sr), delay := none, mode := .run,
      pc := (s.pushFrame savedPc).arbitrate.readValue vectorAccess .long (s.vbr + v.setWidth 32 * 4) }

theorem exceptionEntry_of_canEnter (h : CanEnter s v) (savedPc : Word) (level : Option (BitVec 4)) :
    exceptionEntry s v savedPc level = .next (s.enter v savedPc level) := by
  obtain ⟨ha, m4, w4, m8, w8, hv, mv⟩ := h
  obtain ⟨a4, a8⟩ := aligned_long_push (s.reg 15)
  have hsr := memWrite_eq_ok (s := s.arbitrate) (v := s.srValue).2 ⟨a4.trans ha, m4, w4, rfl⟩
  have hpc := memWrite_eq_ok (s := (s.arbitrate.storeBytes (bytesOf .long (s.reg 15 - 4) s.srValue)).arbitrate)
    (v := savedPc).2 ⟨a8.trans ha, by simpa using m8, by simpa using w8, rfl⟩
  have hvector := memRead_eq_ok (s := (s.pushFrame savedPc).arbitrate) (k := vectorAccess).2
    ⟨(aligned_long_vector s.vbr v).trans hv, by simpa [State.pushFrame] using mv, rfl⟩
  simp only [exceptionEntry, hsr, hpc]
  rw [← State.pushFrame, hvector]
  rfl

theorem canEnter_of_exceptionEntry (h : exceptionEntry s v savedPc level = .next t) : CanEnter s v := by
  obtain ⟨a4, -, m4, w4, m8, w8, av, mv, -⟩ := exceptionEntry_next h
  exact ⟨(aligned_long_push _).1.symm.trans a4, m4, w4, m8, w8, (aligned_long_vector _ v).symm.trans av, mv⟩

theorem exceptionEntry_of_not_canEnter (h : ¬CanEnter s v) (savedPc : Word) (level : Option (BitVec 4)) :
    exceptionEntry s v savedPc level = .fault .exceptionEntry := by
  obtain ⟨t, ht⟩ | hfault := exceptionEntry_cases s v savedPc level
  · exact absurd (canEnter_of_exceptionEntry ht) h
  · exact hfault

/-! ### What it leaves -/

/-- One push (R330). -/
theorem pushed_storeBytes (s : State) (a v : Word) : Pushed s a v (s.arbitrate.storeBytes (bytesOf .long a v)) :=
  ⟨s.arbitrate.store_holds .long a v, (Frame.one s rfl).store (fun _ hb => hb) v⟩

theorem toNat_sub_lt_of_mem_span {a b : Word} (h : b ∈ span .long a) : (b - a).toNat < 4 := by
  simp only [span, List.mem_cons, List.not_mem_nil, or_false] at h
  obtain rfl | rfl | rfl | rfl := h <;> bv_omega

/-- The saved PC lies below the saved SR. -/
theorem notMem_span_push {a b : Word} (h : b ∈ span .long (a - 4)) : b ∉ span .long (a - 8) := fun h' => by
  have hsr := toNat_sub_lt_of_mem_span h
  have hpc := toNat_sub_lt_of_mem_span h'
  bv_omega

/-- Memory still holds a longword where none of its bytes has changed. -/
theorem Holds.of_eq_on_span {a x : Word} (h : Holds t .long a x) (hk : ∀ b, u.kindAt b = t.kindAt b)
    (hb : ∀ b ∈ span .long a, ∀ k, u.byteAt k b = t.byteAt k b) : Holds u .long a x := by
  simp only [span, List.forall_mem_cons] at hb
  obtain ⟨b0, b1, b2, b3, -⟩ := hb
  simpa only [Holds, hk, b0, b1, b2, b3] using h

/-- Both pushes stand in the frame where no other master writes between them. -/
theorem pushFrame_holds (hs : s.between = []) (savedPc : Word) :
    Holds (s.pushFrame savedPc) .long (s.reg 15 - 4) s.srValue ∧
      Holds (s.pushFrame savedPc) .long (s.reg 15 - 8) savedPc := by
  have hidle : (s.storeBytes (bytesOf .long (s.reg 15 - 4) s.srValue)).between = [] := by simpa using hs
  rw [State.pushFrame, State.arbitrate_eq_self hs, State.arbitrate_eq_self hidle]
  refine ⟨(s.store_holds .long _ _).of_eq_on_span (by simp) fun b hb k => ?_, State.store_holds _ .long _ _⟩
  exact State.store_byteAt_outside _ .long _ _ k b (notMem_span_push hb)

/-- What entry changes after its pushes, of which a frame names R15 and the bits of SR (R330). -/
theorem Frame.enter {w : Writes} {sr : Word} (h15 : 15 ∈ w.regs) (hone : w.accesses = 1) (u : State)
    (hsr : ∀ i, i ∉ w.srBits → sr.getLsbD i = u.sr.getLsbD i) (sp pc : Word) :
    Frame w { u with mode := .run }
      { u.arbitrate.setReg 15 sp with sr := sr, delay := none, mode := .run, pc := pc } :=
  { (Frame.one { u with mode := .run } hone).setReg h15 sp with sr := hsr }

/-- With a new level entry writes the mask, else no bit of SR. -/
theorem srWithMask_frame (sr : Word) (level : Option (BitVec 4)) (i : Nat)
    (hi : i ∉ if level = none then [] else [4, 5, 6, 7]) :
    (level.elim sr (srWithMask sr)).getLsbD i = sr.getLsbD i := by
  cases level with
  | none => rfl
  | some l =>
    have hrange : ¬(4 ≤ i ∧ i < 8) := by simp at hi; omega
    exact (srWithMask_getLsbD sr l i).trans (if_neg hrange)

theorem enter_frame (s : State) (v : BitVec 8) (savedPc : Word) (level : Option (BitVec 4)) :
    Frame { regs := [15], srBits := if level = none then [] else [4, 5, 6, 7], accesses := 1 }
      { s.pushFrame savedPc with mode := .run } (s.enter v savedPc level) := by
  have hsr : (s.pushFrame savedPc).sr = s.sr := by simp [State.pushFrame]
  exact Frame.enter (List.mem_singleton.2 rfl) rfl (s.pushFrame savedPc)
    (fun i hi => (srWithMask_frame s.sr level i hi).trans (by rw [hsr])) _ _

/-- The mask entry sets is the level it is given (R336). -/
theorem srWithMask_extract (sr : Word) (l : BitVec 4) : (srWithMask sr l).extractLsb' 4 4 = l := by
  ext i hi
  rw [BitVec.getElem_extractLsb', srWithMask_getLsbD, if_pos (by omega), Nat.add_sub_cancel_left,
    BitVec.getLsbD_eq_getElem]

theorem enter_byteAt (s : State) (v : BitVec 8) (savedPc : Word) (level : Option (BitVec 4)) (k : Nat) (b : Word) :
    (s.enter v savedPc level).byteAt k b = (s.pushFrame savedPc).arbitrate.byteAt k b := rfl

theorem enter_kindAt (s : State) (v : BitVec 8) (savedPc : Word) (level : Option (BitVec 4)) (b : Word) :
    (s.enter v savedPc level).kindAt b = (s.pushFrame savedPc).kindAt b :=
  (s.pushFrame savedPc).arbitrate_kindAt b

/-- What R330 says of the state after entry holds of `State.enter`. -/
theorem enter_entered (s : State) (v : BitVec 8) (savedPc : Word) (level : Option (BitVec 4)) :
    Entered s v savedPc level (s.enter v savedPc level) := by
  refine ⟨?sp, ?mask, ?pc, ?delay, ?mode, ?pushes, ?undisturbed⟩
  case sp => exact State.setReg_reg (s.pushFrame savedPc).arbitrate 15 (s.reg 15 - 8) 15
  case mask => rintro l rfl; exact srWithMask_extract s.sr l
  case pc => rfl
  case delay => rfl
  case mode => rfl
  case pushes =>
    exact ⟨_, s.pushFrame savedPc, pushed_storeBytes s _ _, pushed_storeBytes _ _ _,
      enter_frame s v savedPc level⟩
  case undisturbed =>
    intro hs
    have hidle : (s.pushFrame savedPc).between = [] := by simp [State.pushFrame, hs]
    have hbytes (k : Nat) (b : Word) : (s.enter v savedPc level).byteAt k b = (s.pushFrame savedPc).byteAt k b :=
      (enter_byteAt s v savedPc level k b).trans (congrArg (State.byteAt · k b) (State.arbitrate_eq_self hidle))
    obtain ⟨hsr, hpc⟩ := pushFrame_holds hs savedPc
    have hkinds := enter_kindAt s v savedPc level
    exact ⟨hsr.of_eq hkinds hbytes, hpc.of_eq hkinds hbytes⟩

end Sys2Proof.Machine
end

section
/-! The system control instructions (R280 to R311; 45_system_control.md): the writes of one special register, the same from
and to memory, and RTE, SLEEP and TRAPA. -/

namespace Sys2Proof.Machine

variable {i : Instr} {w : Half} {s : State} {m : Reg} {c : Writes}

/-! ### Writes of special registers (R311) -/

/-- `put` writes what `c` names and nothing else: no general register, and not where control goes next. -/
structure WritesOnly (c : Writes) (put : State → Word → State) : Prop where
  nextPc : ∀ t v, (put t v).nextPc = t.nextPc
  reg : ∀ t v r, (put t v).reg r = t.reg r
  frame : ∀ {s t} v, Frame c s t → Frame c s (put t v)

theorem setGbr_writesOnly (h : c.gbr = true) : WritesOnly c State.setGbr :=
  ⟨fun _ _ => rfl, fun _ _ _ => rfl, fun v hf => hf.setGbr h v⟩

theorem setVbr_writesOnly (h : c.vbr = true) : WritesOnly c State.setVbr :=
  ⟨fun _ _ => rfl, fun _ _ _ => rfl, fun v hf => hf.setVbr h v⟩

theorem setPr_writesOnly (h : c.pr = true) : WritesOnly c State.setPr :=
  ⟨fun _ _ => rfl, fun _ _ _ => rfl, fun v hf => hf.setPr h v⟩

theorem setMach_writesOnly (h : c.mach = true) (h' : c.inFlight = true) : WritesOnly c State.setMach :=
  ⟨fun _ _ => rfl, fun _ _ _ => rfl, fun v hf => hf.setMach h h' v⟩

theorem setMacl_writesOnly (h : c.macl = true) (h' : c.inFlight = true) : WritesOnly c State.setMacl :=
  ⟨fun _ _ => rfl, fun _ _ _ => rfl, fun v hf => hf.setMacl h h' v⟩

/-! ### Clears, sets and loads from a register -/

/-- An instruction that only moves on from a state it has brought about without moving. -/
theorem completes_of_advance {u : State} {result : State → Prop} (hcode : encode i = w)
    (hexec : exec i s = .next u.advance) (hnext : u.nextPc = s.nextPc) (hframe : Frame c s u)
    (hresult : result u.advance) : Completes w i s c result :=
  ⟨decode_of_encode hcode, _, hexec, sequential_advance hnext, hframe.advance, hresult⟩

/-- LDC and LDS. -/
theorem completes_of_putSystem {put : State → Word → State} {v : Word} {result : State → Prop}
    (hcode : encode i = w) (hexec : exec i s = putSystem (put s v)) (hput : WritesOnly c put)
    (haccesses : c.accesses = 0) (hresult : result (put s v).advance) : Completes w i s c result :=
  completes_of_advance hcode hexec (hput.nextPc s v) (hput.frame v (Frame.refl s haccesses)) hresult

/-- Settles O49: NOP only moves on, CLRT and SETT write T, the loads are `putSystem`, CLRMAC writes both halves. -/
theorem clearsSetsAndRegisterLoads : Obligations.ClearsSetsAndRegisterLoads := by
  intro m s
  refine ⟨completes_of_setT rfl rfl fun _ h => h, completes_of_setT rfl rfl fun _ h => h,
    completes_of_advance rfl rfl rfl (Frame.refl s rfl) trivial,
    completes_of_putSystem rfl rfl (setGbr_writesOnly rfl) rfl rfl,
    completes_of_putSystem rfl rfl (setVbr_writesOnly rfl) rfl rfl,
    completes_of_putSystem rfl rfl (setPr_writesOnly rfl) rfl rfl, fun hrun => ⟨?clrmac, ?mach, ?macl⟩⟩
  case clrmac =>
    exact completes_of_advance rfl (multiplierGuard_of_running hrun) rfl
      (((Frame.refl s rfl).setMach rfl rfl 0).setMacl rfl rfl 0) ⟨rfl, rfl, rfl, rfl⟩
  case mach =>
    exact completes_of_putSystem rfl (multiplierGuard_of_running hrun) (setMach_writesOnly rfl rfl) rfl ⟨rfl, rfl, rfl⟩
  case macl =>
    exact completes_of_putSystem rfl (multiplierGuard_of_running hrun) (setMacl_writesOnly rfl rfl) rfl ⟨rfl, rfl, rfl⟩

/-! ### Loads from memory: LDC.L and LDS.L -/

theorem loadSystem_eq (s : State) (m : Reg) (put : State → Word → State) :
    loadSystem s m put = readThen s 0 .long (s.reg m) (s.baseAfterError 0 m (s.reg m + Size.long.bytes))
      fun t v => .next (put (t.setReg m (s.reg m + Size.long.bytes)) v).advance := rfl

/-- An instruction that is `loadSystem` is a load from `@Rm+` into what `put` writes. -/
theorem loadsInc_of_loadSystem {put : State → Word → State} {result : State → Prop} (hcode : encode i = w)
    (hexec : exec i s = loadSystem s m put) (hm : m ∈ c.regs) (hput : WritesOnly { c with accesses := 1 } put)
    (hresult : result (put (s.arbitrate.setReg m (s.reg m + Size.long.bytes))
      (loadedValue s.arbitrate 0 .long (s.reg m))).advance) :
    LoadsInc w i s .long m c fun t => t.reg m = s.reg m + 4 ∧ result t := by
  rw [loadSystem_eq] at hexec
  have hframe : Frame { c with accesses := 1 } s (s.arbitrate.setReg m (s.reg m + Size.long.bytes)) :=
    Frame.setReg (w := { c with accesses := 1 }) (Frame.one s rfl) hm _
  refine ⟨fun ha hmap => completes_of_advance hcode (hexec.trans (readThen_ok ha hmap)) (hput.nextPc _ _)
      (hput.frame _ hframe) ⟨?base, hresult⟩,
    fun ha hmap => hexec.trans (readThen_absent ha hmap),
    fun ha => ⟨decode_of_encode hcode, _, s.baseAfterError_cases 0 m _, hexec.trans (readThen_misaligned ha)⟩⟩
  case base =>
    rw [State.advance_reg, hput.reg, State.setReg_reg, if_pos rfl]
    rfl

/-- Settles O50: each of the five is `loadSystem` with the write of its register. -/
theorem postIncrementLoadsOfSystemRegisters : Obligations.PostIncrementLoadsOfSystemRegisters := by
  intro m s
  have hm : m ∈ [m] := List.mem_singleton.2 rfl
  refine ⟨loadsInc_of_loadSystem rfl rfl hm (setGbr_writesOnly rfl) rfl,
    loadsInc_of_loadSystem rfl rfl hm (setVbr_writesOnly rfl) rfl,
    loadsInc_of_loadSystem rfl rfl hm (setPr_writesOnly rfl) rfl, fun hrun => ⟨?mach, ?macl⟩⟩
  case mach =>
    exact loadsInc_of_loadSystem rfl (multiplierGuard_of_running hrun) hm (setMach_writesOnly rfl rfl) ⟨rfl, rfl, rfl⟩
  case macl =>
    exact loadsInc_of_loadSystem rfl (multiplierGuard_of_running hrun) hm (setMacl_writesOnly rfl rfl) ⟨rfl, rfl, rfl⟩

/-! ### Stores: STC and STS to a register, STC.L and STS.L to memory -/

/-- Settles O51: each of the five puts one value into Rn. -/
theorem registerStoresOfSystemRegisters : Obligations.RegisterStoresOfSystemRegisters := by
  intro n s
  exact ⟨completes_of_setReg rfl rfl fun _ h => h, completes_of_setReg rfl rfl fun _ h => h,
    completes_of_setReg rfl rfl fun _ h => h,
    fun hrun => ⟨completes_of_setReg rfl (multiplierGuard_of_running hrun) fun _ h => h,
      completes_of_setReg rfl (multiplierGuard_of_running hrun) fun _ h => h⟩⟩

/-- Settles O52: each of the five is `pushSystem`. -/
theorem preDecrementStoresOfSystemRegisters : Obligations.PreDecrementStoresOfSystemRegisters := by
  intro n s
  exact ⟨storesDec_of_pushSystem (decode_of_encode rfl) rfl, storesDec_of_pushSystem (decode_of_encode rfl) rfl,
    storesDec_of_pushSystem (decode_of_encode rfl) rfl,
    fun hrun => ⟨storesDec_of_pushSystem (decode_of_encode rfl) (multiplierGuard_of_running hrun),
      storesDec_of_pushSystem (decode_of_encode rfl) (multiplierGuard_of_running hrun)⟩⟩

/-! ### RTE (R295) -/

/-- RTE's two pops, where both can be made. -/
theorem execRte_ok (hs : s.delay = none) (ha : aligned .long (s.reg 15) = true)
    (hm : s.mapped .long (s.reg 15) = true) (hm' : s.mapped .long (s.reg 15 + 4) = true) :
    exec .rte s = .next (((s.arbitrate.arbitrate.setReg 15 (s.reg 15 + 8)).setSr
      (loadedValue s.arbitrate.arbitrate 1 .long (s.reg 15 + 4))).branchDelayed
        (loadedValue s.arbitrate 0 .long (s.reg 15))) := by
  rw [execRte_eq hs, readThen_ok ha hm, readThen_ok ((aligned_long_add_four _).trans ha) (by simpa using hm')]
  rfl

/-- Settles O54: what the two pops leave. -/
theorem rteRestoresPcAndSrFromTheStack : Obligations.RteRestoresPcAndSrFromTheStack := by
  intro s hs ha hm hm'
  refine ⟨decode_of_encode rfl, _, execRte_ok hs ha hm hm', rfl, rfl, ?frame, ?sp, rfl⟩
  case frame =>
    exact (((Frame.two s rfl).setReg (List.mem_singleton.2 rfl) _).setSr rfl _).branchDelayed _
  case sp => exact State.setReg_reg s.arbitrate.arbitrate 15 _ 15

/-! ### SLEEP (R297) -/

theorem powerDown_of_sleep (h : s.platform.sby = false) : powerDown s = { s with mode := .sleep } := by
  simp [powerDown, h]

theorem powerDown_of_standby (h : s.platform.sby = true) : powerDown s = enterStandby s := by
  simp [powerDown, h]

theorem loseAccumulator_kindAt_byteAt (s : State) (k : Nat) (a : Word) :
    (loseAccumulator s).kindAt a = s.kindAt a ∧ (loseAccumulator s).byteAt k a = s.byteAt k a := by
  obtain ⟨-, -, e⟩ | e := loseAccumulator_cases s <;> rw [e] <;> exact ⟨rfl, rfl⟩

/-- Standby loses no byte outside on-chip RAM (R356, U9). -/
theorem enterStandby_byteAt (k : Nat) {a : Word} (h : s.kindAt a ≠ .onChipRam) :
    (enterStandby s).byteAt k a = s.byteAt k a := by
  obtain ⟨hkind, hbyte⟩ := loseAccumulator_kindAt_byteAt s k a
  exact (loseOnChipRam_byteAt (loseAccumulator s) k a (hkind ▸ h)).trans hbyte

/-- Settles O55: what is held in standby is what `powerDown_eq` does not name. -/
theorem sleepEntersTheModeSbySelects : Obligations.SleepEntersTheModeSbySelects := by
  intro s
  refine ⟨decode_of_encode rfl, fun hsby => ?sleep, fun hsby => ?standby⟩
  case sleep =>
    have hexec : exec .sleep s = .next ({ s with mode := .sleep } : State).advance :=
      congrArg Host.Outcome.next (powerDown_of_sleep (s := s.advance) hsby)
    exact ⟨_, hexec, sequential_advance rfl, rfl, (Frame.refl _ rfl).advance⟩
  case standby =>
    have hheld := powerDown_eq s.advance
    have hstandby := powerDown_of_standby (s := s.advance) hsby
    refine ⟨_, congrArg Host.Outcome.next hheld, ⟨rfl, rfl⟩, congrArg State.mode hstandby, fun _ => rfl, rfl, rfl, rfl,
      rfl, fun hmach hmacl => powerDown_keeps_accumulator fun _ => ⟨hmach, hmacl⟩, rfl, rfl, ?platform, rfl, rfl, rfl,
      rfl, rfl, rfl, fun k a ha => ?bytes⟩
    case platform => simp [hsby]
    case bytes =>
      calc State.byteAt _ k a
        _ = (powerDown s.advance).byteAt k a := congrArg (State.byteAt · k a) hheld.symm
        _ = (enterStandby s.advance).byteAt k a := congrArg (State.byteAt · k a) hstandby
        _ = s.advance.byteAt k a := enterStandby_byteAt k ha

/-! ### TRAPA (R310) -/

/-- Settles O56: outside a slot TRAPA is the entry, which `CanEnter` decides. -/
theorem trapaEntersItsVector : Obligations.TrapaEntersItsVector := by
  intro imm s hs
  have hexec : exec (.trapa imm) s = exceptionEntry s imm (s.pc + 2) none := notInSlot_outside hs
  exact ⟨decode_of_encode rfl,
    fun h => ⟨_, hexec.trans (exceptionEntry_of_canEnter h _ _), enter_entered s imm _ _⟩,
    fun h => hexec.trans (exceptionEntry_of_not_canEnter h _ _)⟩

end Sys2Proof.Machine
end

section
/-! What happens at a boundary other than an instruction (60_exceptions.md; R355 to R358, R371): exception entry, the
request that is accepted, what ends a power-down mode, and reset. -/

namespace Sys2Proof.Machine

variable {s : State} {inp : Input} {kind : ResetKind} {mask : BitVec 4} {r : Request} {rs : List Request}

/-! ### Exception entry (R330, R331, R339) -/

/-- Settles O7: the entry is `State.enter` where `CanEnter` holds and the fault elsewhere; the address error saves
`State.nextPc`. -/
theorem exceptionEntryPushesSrAndPcAndJumps : Obligations.ExceptionEntryPushesSrAndPcAndJumps := by
  intro s v savedPc level
  refine ⟨fun h => ⟨s.enter v savedPc level, ?next, ?entered⟩, fun h => ?fault, rfl⟩
  case next => exact exceptionEntry_of_canEnter h savedPc level
  case entered => exact enter_entered s v savedPc level
  case fault => exact exceptionEntry_of_not_canEnter h savedPc level

/-! ### The accepted request (R334 to R337) -/

/-- A list that is not empty has a highest request: one of it that no other is above. -/
theorem exists_highest_cons (r : Request) (rest : List Request) :
    ∃ p, highest (r :: rest) = some p ∧ p ∈ r :: rest ∧ ∀ q ∈ r :: rest, q.level ≤ p.level := by
  induction rest generalizing r with
  | nil => exact ⟨r, rfl, List.mem_cons_self, by simp⟩
  | cons x xs ih =>
    obtain ⟨p, hp, hmem, hle⟩ := ih x
    have hcons : highest (r :: x :: xs) = if r.level < p.level then some p else some r := by rw [highest, hp]
    by_cases hlt : r.level < p.level
    · exact ⟨p, hcons.trans (if_pos hlt), .tail r hmem, List.forall_mem_cons.2 ⟨hlt.le, hle⟩⟩
    · have hr : p.level ≤ r.level := not_lt.1 hlt
      exact ⟨r, hcons.trans (if_neg hlt), List.mem_cons_self,
        List.forall_mem_cons.2 ⟨le_rfl, fun q hq => (hle q hq).trans hr⟩⟩

/-- With anything pending there is a highest request. -/
theorem exists_highest_of_mem (h : r ∈ rs) : ∃ p, highest rs = some p := by
  cases rs with
  | nil => cases h
  | cons x xs => exact (exists_highest_cons x xs).imp fun _ hp => hp.1

/-- The highest request is pending, and no pending one is above it. -/
theorem mem_and_level_le_of_highest (h : highest rs = some r) : r ∈ rs ∧ ∀ q ∈ rs, q.level ≤ r.level := by
  cases rs with
  | nil => cases h
  | cons x xs =>
    obtain ⟨p, hp, hspec⟩ := exists_highest_cons x xs
    obtain rfl : p = r := Option.some.inj (hp.symm.trans h)
    exact hspec

/-- NMI's level 16 is above every level a source can have (R334). -/
theorem eq_nmi_of_level_le (h : Request.nmi.level ≤ r.level) : r = .nmi := by
  cases r with
  | nmi => rfl
  | irq l v => exact absurd l.isLt (not_lt.2 h)

/-- Accepted is the highest request, and only above the mask (R335). -/
theorem acceptedRequest_eq_some :
    acceptedRequest mask rs = some r ↔ highest rs = some r ∧ mask.toNat < r.level := by
  unfold acceptedRequest acceptable
  cases hh : highest rs with
  | none => simp
  | some p =>
    simp only [decide_eq_true_eq, Option.ite_none_right_eq_some, Option.some.injEq]
    exact and_comm.trans (and_congr_right fun hp => hp ▸ Iff.rfl)

/-- Settles O10: the highest request is what `mem_and_level_le_of_highest` says. -/
theorem acceptedRequestIsTheHighestUnmasked : Obligations.AcceptedRequestIsTheHighestUnmasked := by
  intro mask rs
  refine ⟨fun r h => ?accepted, fun ⟨q, hq, hmask⟩ => ?some, fun h => ?nmi, fun vector h => ?zero⟩
  case accepted =>
    obtain ⟨hhighest, hmask⟩ := acceptedRequest_eq_some.1 h
    obtain ⟨hmem, hle⟩ := mem_and_level_le_of_highest hhighest
    exact ⟨hmem, hmask, hle⟩
  case some =>
    obtain ⟨p, hp⟩ := exists_highest_of_mem hq
    have hqp : q.level ≤ p.level := (mem_and_level_le_of_highest hp).2 q hq
    exact ⟨p, acceptedRequest_eq_some.2 ⟨hp, hmask.trans_le hqp⟩⟩
  case nmi =>
    obtain ⟨p, hp⟩ := exists_highest_of_mem h
    obtain rfl : p = .nmi := eq_nmi_of_level_le ((mem_and_level_le_of_highest hp).2 .nmi h)
    exact acceptedRequest_eq_some.2 ⟨hp, mask.isLt⟩
  case zero =>
    obtain ⟨-, hmask⟩ := acceptedRequest_eq_some.1 h
    exact Nat.not_lt_zero _ hmask

/-! ### The ends of sleep and of standby (R355, R356, R358) -/

/-- With neither reset nor bus request, a sleeping CPU sees what it is presented. -/
theorem step_eq_sleepStep (hm : s.mode = .sleep) (hr : s.boundary.reset = none) (hb : s.boundary.bus = none) :
    step s = sleepStep s.boundary s.begin := by
  simp only [step, hr, hb, modeStep, State.begin_mode, hm]

/-- So does a CPU in standby. -/
theorem step_eq_standbyStep (hm : s.mode = .standby) (hr : s.boundary.reset = none) (hb : s.boundary.bus = none) :
    step s = standbyStep s.boundary s.begin := by
  simp only [step, hr, hb, modeStep, State.begin_mode, hm]

/-- A DMA address error ends sleep, before an interrupt (R338, R358). -/
theorem sleepStep_of_dmaError (hd : inp.dmaError = true) : sleepStep inp s = dmaErrorEntry s := by
  simp [sleepStep, hd]

/-- An accepted interrupt ends sleep (R358). -/
theorem sleepStep_of_accepted (hd : inp.dmaError = false) (ha : acceptedRequest s.imask inp.requests = some r) :
    sleepStep inp s = interruptEntry s r := by
  simp [sleepStep, hd, ha]

/-- Nothing else does: a masked interrupt leaves the CPU asleep (D25). -/
theorem sleepStep_of_quiet (hd : inp.dmaError = false) (ha : acceptedRequest s.imask inp.requests = none) :
    sleepStep inp s = .next s := by
  simp [sleepStep, hd, ha]

/-- NMI ends standby (R358). -/
theorem standbyStep_of_nmi (h : .nmi ∈ inp.requests) : standbyStep inp s = interruptEntry s .nmi :=
  if_pos (List.contains_iff_mem.2 h)

/-- Nothing else does. -/
theorem standbyStep_of_not_nmi (h : .nmi ∉ inp.requests) : standbyStep inp s = .next s :=
  if_neg fun hc => h (List.contains_iff_mem.1 hc)

/-- Settles O11, by the cases of `sleepStep` and of `standbyStep`. -/
theorem powerDownEndsOnlyOnItsWakeUpEvents : Obligations.PowerDownEndsOnlyOnItsWakeUpEvents := by
  intro s hr hb
  refine ⟨fun hm => ?sleep, fun hm => ?standby⟩
  case sleep =>
    rw [step_eq_sleepStep hm hr hb]
    refine ⟨?dma, ?irq, ?nmi, ?quiet⟩
    case dma => exact sleepStep_of_dmaError
    case irq => exact fun hd level vector => sleepStep_of_accepted (s := s.begin) (r := .irq level vector) hd
    case nmi => exact sleepStep_of_accepted (s := s.begin) (r := .nmi)
    case quiet => exact sleepStep_of_quiet (s := s.begin)
  case standby =>
    rw [step_eq_standbyStep hm hr hb]
    exact ⟨standbyStep_of_nmi, standbyStep_of_not_nmi⟩

/-! ### Reset (R370 to R374) -/

/-- A requested reset overrides every mode (R370). -/
theorem step_of_reset (h : s.boundary.reset = some kind) : step s = resetSequence kind s.begin := by
  simp only [step, h]

/-- The vector table is aligned (R371). -/
theorem resetBase_aligned (kind : ResetKind) :
    aligned .long (resetBase kind) = true ∧ aligned .long (resetBase kind + 4) = true := by
  cases kind <;> decide

/-- The reset sequence completes where both vectors can be read (R371). -/
theorem resetSequence_of_mapped (hpc : s.mapped .long (resetBase kind) = true)
    (hsp : s.mapped .long (resetBase kind + 4) = true) : ∃ t, resetSequence kind s = .next t := by
  obtain ⟨apc, asp⟩ := resetBase_aligned kind
  have entry := memRead_eq_ok (s := s.arbitrate) (k := 0).2 ⟨apc, hpc, rfl⟩
  have sp := memRead_eq_ok (s := s.arbitrate.arbitrate) (k := 1).2 ⟨asp, hsp, rfl⟩
  exact ⟨_, by rw [resetSequence, entry, sp]⟩

/-- The reset sequence answers a next state or the reset fault (R374). -/
theorem resetSequence_cases (kind : ResetKind) (s : State) :
    (∃ t, resetSequence kind s = .next t) ∨ resetSequence kind s = .fault .resetVector := by
  unfold resetSequence
  split
  · exact .inl ⟨_, rfl⟩
  · exact .inr rfl

/-- Elsewhere it is the reset fault (R374). -/
theorem resetSequence_of_not_mapped
    (h : ¬(s.mapped .long (resetBase kind) = true ∧ s.mapped .long (resetBase kind + 4) = true)) :
    resetSequence kind s = .fault .resetVector := by
  obtain ⟨t, ht⟩ | hfault := resetSequence_cases kind s
  · obtain ⟨hpc, hsp, -⟩ := resetSequence_next ht
    exact absurd ⟨hpc, hsp⟩ h
  · exact hfault

/-- Of the registers a reset gives R15 its value (R40). -/
theorem resetRegs_sp (tick : Nat) (sp : Word) : (resetRegs tick sp)[15] = sp := by
  simp [resetRegs]

/-- The open bits of SR after a reset lie outside the mask, which is 15 (R40). -/
theorem resetSr_mask (tick : Nat) : (resetSr tick).extractLsb' 4 4 = 15 := by
  simp [resetSr, BitVec.extractLsb'_or, BitVec.extractLsb'_and]

/-- Settles O13: the state is the one `resetSequence_next` writes out. -/
theorem resetFetchesPcAndSpFromTheVectorTable : Obligations.ResetFetchesPcAndSpFromTheVectorTable := by
  intro s kind hreset base
  have hbase : base = resetBase kind := by cases kind <;> rfl
  rw [hbase, step_of_reset hreset]
  refine ⟨fun hpc hsp => ?next, fun h => ?fault⟩
  case next =>
    obtain ⟨t, ht⟩ := resetSequence_of_mapped (s := s.begin) hpc hsp
    obtain ⟨-, -, rfl⟩ := resetSequence_next ht
    refine ⟨_, ht, rfl, ?sp, rfl, ?mask, ?reserved, rfl, rfl, rfl, rfl, rfl, rfl, rfl, rfl⟩
    case sp => exact resetRegs_sp s.begin.tick _
    case mask => exact resetSr_mask s.begin.tick
    case reserved => exact resetSr_reservedClear s.begin.tick
  case fault => exact resetSequence_of_not_mapped (s := s.begin) h

end Sys2Proof.Machine
end
